-- ==== Sys2Proof/Word.lean ====
section
/-! DEFINITION. The widths of the block's data: 64-bit words (R8), the 32-bit words and bytes of SHA-256 (R10). -/

namespace Sys2Proof

/-- R8: a word is an unsigned 64-bit integer; its arithmetic is modulo 2^64 and wraps silently. -/
abbrev Word := BitVec 64

/-- R10: a 32-bit word used inside SHA-256, arithmetic modulo 2^32. -/
abbrev U32 := BitVec 32

/-- A byte of the reseed's hash message or digest (R41, R42). -/
abbrev Byte := BitVec 8

end Sys2Proof
end

