-- ==== Sys2Proof/Syntax.lean ====
section
/-! DEFINITION. The commands: what travels on the command channel (R60, R65) and the five operations of
spec/opcode_table.json, one constructor each. -/

namespace Sys2Proof

/-- What the host presents on the command channel (R60, R68): the 32-bit `cmd_word` and the 256-bit `cmd_data`. -/
structure Command where
  word : BitVec 32
  data : BitVec 256
  deriving DecidableEq, Repr

/-- The five commands of R61, with the operands R62, R63 and R65 give them. -/
inductive Instr where
  /-- SEED (R100): the claimed word count `N = cmd[6:4]` and the data words `d_0 .. d_3`. -/
  | seed (n : BitVec 3) (d0 d1 d2 d3 : Word)
  /-- NEXT (R144): one raw draw. -/
  | next
  /-- NEXTF (R163): the finite-double draw. -/
  | nextf
  /-- ROTL (R92): the amount `k = cmd[13:8]` and the operand `x = d_0`. -/
  | rotl (k : BitVec 6) (x : Word)
  /-- RDREG (R180): the register index `r = cmd[13:8]`, of which 0..6 are legal (R181). -/
  | rdreg (r : BitVec 6)
  deriving DecidableEq, Repr

end Sys2Proof
end

