-- ==== Sys2Proof/WellFormed.lean ====
section
/-! DEFINITION. Which terms of `Instr` are commands of the block. The types of the operands already hold every other
field to the values its encoding admits; the one check left is the register index of RDREG. -/

namespace Sys2Proof

/-- R181: the indices 7..63 name no register. -/
def registerIndexLegal (r : BitVec 6) : Bool := r.toNat ≤ 6

/-- A term is well formed when a legal command word (R66) carries it. -/
def Instr.wellFormed : Instr → Bool
  | .seed _ _ _ _ _ => true
  | .next => true
  | .nextf => true
  | .rotl _ _ => true
  | .rdreg r => registerIndexLegal r

end Sys2Proof
end

