-- ==== Sys2Proof/Decode.lean ====
section
/-! DEFINITION. From a command on the port to an instruction, or to a rejection by name (R60–R66, R74); after it the
encoder (R72), written from the encoding tables and not from the decoder. -/

namespace Sys2Proof

/-! ## The fields of a command (R60, R65) -/

/-- `OP = cmd[3:0]` (R61). -/
def opField (cmd : BitVec 32) : BitVec 4 := cmd.extractLsb' 0 4

/-- `N = cmd[6:4]`, unsigned (R62). -/
def countField (cmd : BitVec 32) : BitVec 3 := cmd.extractLsb' 4 3

/-- `A = cmd[13:8]`, unsigned, not scaled (R63). -/
def argField (cmd : BitVec 32) : BitVec 6 := cmd.extractLsb' 8 6

/-- Bits 7 and 31:14 are reserved and must be 0 (R64). -/
def reservedZero (cmd : BitVec 32) : Bool :=
  cmd.extractLsb' 14 18 == 0#18 && cmd.extractLsb' 7 1 == 0#1

/-- `d_i = cmd_data[64*i + 63 : 64*i]` (R65). -/
def dataWord (data : BitVec 256) (i : Nat) : Word := data.extractLsb' (64 * i) 64

/-! ## Legality (R66) -/

/-- R66's predicate `legal(cmd)`, clause by clause. The decoder below does not use it; that the two agree is an
obligation. -/
def legal (cmd : BitVec 32) : Bool :=
  reservedZero cmd
  && [0x1#4, 0x2#4, 0x3#4, 0x4#4, 0x5#4].contains (opField cmd)
  && (opField cmd == 0x1#4 || countField cmd == 0#3)
  && (!([0x1#4, 0x2#4, 0x3#4].contains (opField cmd)) || argField cmd == 0#6)
  && (opField cmd != 0x5#4 || (argField cmd).toNat ≤ 6)

/-! ## Decoding -/

/-- Why a command word is `IllegalCommand` (R203 lists these causes; the block reports one code for all of them). -/
inductive IllegalWord where
  /-- `OP` is 0x0 or 0x6–0xF (R61). -/
  | reservedOp
  /-- Bit 7 or one of the bits 31:14 is set (R64). -/
  | reservedBits
  /-- `N ≠ 0` outside SEED (R62). -/
  | countNotZero
  /-- `A ≠ 0` on SEED, NEXT or NEXTF (R63). -/
  | argumentNotZero
  /-- RDREG with `r ≥ 7` (R181). -/
  | noSuchRegister
  deriving DecidableEq, Repr

/-- The answer of the decoder. -/
inductive Decoded where
  | instr (i : Instr)
  | illegal (why : IllegalWord)
  deriving DecidableEq, Repr

/-- The instruction read from a command, if there is one. -/
def Decoded.toOption : Decoded → Option Instr
  | .instr i => some i
  | .illegal _ => none

/-- `IllegalCommand` unless the bit and the field that an operation does not use are 0 (R62–R64). -/
def checked (cmd : BitVec 32) (usesN usesA : Bool) (i : Instr) : Decoded :=
  if !reservedZero cmd then .illegal .reservedBits
  else if !usesN && countField cmd != 0#3 then .illegal .countNotZero
  else if !usesA && argField cmd != 0#6 then .illegal .argumentNotZero
  else .instr i

/-- R74: a decoder reads `OP` first and then checks the rest. Total: every command is an instruction or is rejected by
name (R66: "Every encoding is either legal or `IllegalCommand`"). -/
def decode (c : Command) : Decoded :=
  let op := opField c.word
  let a := argField c.word
  if op = 0x1#4 then
    checked c.word true false
      (.seed (countField c.word) (dataWord c.data 0) (dataWord c.data 1) (dataWord c.data 2) (dataWord c.data 3))
  else if op = 0x2#4 then checked c.word false false .next
  else if op = 0x3#4 then checked c.word false false .nextf
  else if op = 0x4#4 then checked c.word false true (.rotl a (dataWord c.data 0))
  else if op = 0x5#4 then
    if registerIndexLegal a then checked c.word false true (.rdreg a) else .illegal .noSuchRegister
  else .illegal .reservedOp

/-! ## Encoding (the table of R72) -/

/-- The four operand words on the data bus, `d_0` in the lowest bits (R65). -/
def dataBus (d0 d1 d2 d3 : Word) : BitVec 256 := d3 ++ d2 ++ d1 ++ d0

/-- R72: `0x00000001 | n << 4`. -/
def seedWord (n : BitVec 3) : BitVec 32 := 0x00000001#32 ||| (n.setWidth 32 <<< 4)

/-- R72: `0x00000002`. -/
def nextWord : BitVec 32 := 0x00000002#32

/-- R72: `0x00000003`. -/
def nextfWord : BitVec 32 := 0x00000003#32

/-- R72: `0x00000004 | k << 8`. -/
def rotlWord (k : BitVec 6) : BitVec 32 := 0x00000004#32 ||| (k.setWidth 32 <<< 8)

/-- R72: `0x00000005 | r << 8`. -/
def rdregWord (r : BitVec 6) : BitVec 32 := 0x00000005#32 ||| (r.setWidth 32 <<< 8)

/-- The command a host presents for an instruction. Data words that the command does not use carry 0 (R65: they are
ignored). -/
def encode : Instr → Command
  | .seed n d0 d1 d2 d3 => ⟨seedWord n, dataBus d0 d1 d2 d3⟩
  | .next => ⟨nextWord, 0⟩
  | .nextf => ⟨nextfWord, 0⟩
  | .rotl k x => ⟨rotlWord k, dataBus x 0 0 0⟩
  | .rdreg r => ⟨rdregWord r, 0⟩

/-! ## The opcode table's numbering of bits -/

/-- A command given as one number: `cmd_word` is bits 31:0 and `cmd_data` is bits 287:32; bits from `nbits` up are 0. -/
def commandOfBits (nbits w : Nat) : Command :=
  let v := w % 2 ^ nbits
  ⟨BitVec.ofNat 32 v, BitVec.ofNat 256 (v >>> 32)⟩

/-- The instruction the decoder reads from a word of spec/opcode_table.json. -/
def decodeTableWord (nbits w : Nat) : Option Instr := (decode (commandOfBits nbits w)).toOption

end Sys2Proof
end

