-- ==== Sys2Proof/Config.lean ====
section
/-! DEFINITION. The one build parameter that the spec leaves to whoever builds the block: `FINITE_CAP` (R5, R165).
The other parameters of R5 have the value this hardware takes and stand in Machine/Params.lean. -/

namespace Sys2Proof

/-- What is fixed when the block is built (R5, R28: "nothing configures it at run time").
DESIGN CHOICE (log entry 2): a value of this type is carried in `State`, so that a statement about every state is a
statement about every build. -/
structure Config where
  /-- `FINITE_CAP` (R5, R165): `none`, or `some c` with `c ≥ 1`. -/
  finiteCap : Option Nat
  deriving DecidableEq, Repr

/-- The build R5 gives by default: no cap on the retries of NEXTF. -/
def Config.standard : Config where
  finiteCap := none

/-- R165: a cap, where there is one, is at least 1. -/
def Config.legal (c : Config) : Bool := c.finiteCap != some 0

end Sys2Proof
end

