-- ==== Sys2Proof/Machine/State.lean ====
section
/-! DEFINITION. The state of the block (R20, R31), the host's side of its port as data (R68), the reasons a run can end,
and the state after reset (R32, R230). -/

namespace Sys2Proof.Machine

/-- The four 64-bit state words `s0 .. s3` (R21): the 256 bits the draw mixes and the reseed replaces. -/
structure Words where
  s0 : Word
  s1 : Word
  s2 : Word
  s3 : Word
  deriving DecidableEq, Repr

/-- The generator a SEED constructs: the state words, the countdown `cnt`, an 11-bit register (R23, D15), and the draw
counter `ndraw` (R25). These six registers hold no value of the spec's while `SEEDED = 0` (R26, R32). -/
structure Generator where
  words : Words
  cnt : BitVec 11
  ndraw : Word
  deriving DecidableEq, Repr

/-- A response (R67): a 4-bit status and 64 bits of data. -/
structure Response where
  status : BitVec 4
  data : Word
  deriving DecidableEq, Repr

/-- The four causes of a fault of the block (R200, codes 1 to 4). A fault of the block is a next state (R208). -/
inductive Cause where
  | invalidSeed
  | notSeeded
  | illegalCommand
  | retryExhausted
  deriving DecidableEq, Repr

/-- What the host drives on the block's inputs at one rising edge of `clk` (R68). -/
structure PortIn where
  rst : Bool
  cmdValid : Bool
  cmd : Command
  rspReady : Bool
  deriving DecidableEq, Repr

/-- All state of the block (R20 and R31), and three fields of the model's own (`config`, `offer`, `pins`). -/
structure State where
  /-- `s0 .. s3`, `cnt`, `ndraw` (R21, R23, R25). -/
  gen : Generator
  /-- `SEEDED` (R26). -/
  seeded : Bool
  /-- `FAULTED` (R27). -/
  faulted : Bool
  /-- `ECODE` (R27). -/
  ecode : BitVec 4
  /-- `busy` (R31): a command was accepted and its response has not been taken. -/
  busy : Bool
  /-- `nf_tries` (R31): the internal draws of the NEXTF in progress. -/
  nfTries : Nat
  /-- `rsp` (R31): the response that waits for the host. -/
  rsp : Option Response
  /-- The build parameters (R5); the MODEL's field, log entry 2. -/
  config : Config
  /-- The command the host offered at the last edge and that was not transferred: what it must go on holding (R70); the
  MODEL's field, log entry 4. -/
  offer : Option Command
  /-- What the host drives at the edges to come, oldest first; the MODEL's field, log entries 3 and 5. -/
  pins : List PortIn
  deriving DecidableEq, Repr

/-- Faults that stop the MODEL: there are none. Every fault of the block (R200) is recorded in the state and answered,
and the block goes on answering (R205, R208). Safe: nothing ends in a fault. -/
inductive Fault where
  deriving DecidableEq, Repr

/-- Reasons for which a run has no meaning. -/
inductive Refusal where
  /-- Raised by `exec`'s arm of an instruction without a meaning; no arm of this model raises it. Safe. -/
  | notModelled (mnemonic : String)
  /-- Raised by a clock edge at which the host withdraws or changes a command it has offered and that was not yet
  transferred (R70: "The model refuses such a run"; U7). Safe: no claim is made about such a run. -/
  | hostBrokeHandshake
  deriving DecidableEq, Repr

/-- The generator's registers right after reset. DESIGN CHOICE (log entry 1): R32 gives them no value; the model's is 0. -/
def Generator.unwritten : Generator where
  words := ⟨0, 0, 0, 0⟩
  cnt := 0
  ndraw := 0

/-- The block right after reset (R32, R230), with the standard build (R5) and a host that drives nothing. -/
def State.reset : State where
  gen := Generator.unwritten
  seeded := false
  faulted := false
  ecode := 0
  busy := false
  nfTries := 0
  rsp := none
  config := Config.standard
  offer := none
  pins := []

end Sys2Proof.Machine
end

