-- ==== Sys2Proof/Machine/Flags.lean ====
section
/-! DEFINITION. STATUS and the status codes (R28, R200), and what the finite filter reads in a word (R160–R162). -/

namespace Sys2Proof.Machine

/-! ## Codes (R200) -/

/-- The code of a fault, as carried in the response status and in `ECODE` (R200). -/
def Cause.code : Cause → BitVec 4
  | .invalidSeed => 1
  | .notSeeded => 2
  | .illegalCommand => 3
  | .retryExhausted => 4

/-- `status = 0`: OK (R67). -/
def statusOk : BitVec 4 := 0

/-- `status = 0xF`: the block was already FAULTED (R67, R205). -/
def statusHalted : BitVec 4 := 0xF

/-! ## STATUS (R28) -/

/-- The STATUS view, field by field from bit 63 down: 63:8 zero, `ECODE` 7:4, 3:2 zero, `FAULTED` 1, `SEEDED` 0 (R28). -/
def statusWord (seeded faulted : Bool) (ecode : BitVec 4) : Word :=
  0#56 ++ ecode ++ 0#2 ++ BitVec.ofBool faulted ++ BitVec.ofBool seeded

/-- STATUS as the block's state gives it (R28). -/
def State.status (s : State) : Word := statusWord s.seeded s.faulted s.ecode

/-! ## A word as a binary64 pattern (R160–R162) -/

/-- The sign, bit 63 (R160). -/
def binary64Sign (w : Word) : BitVec 1 := w.extractLsb' 63 1

/-- The biased exponent `E`, bits 62:52 (R160). -/
def binary64Exponent (w : Word) : BitVec 11 := w.extractLsb' 52 11

/-- The fraction `F`, bits 51:0 (R160). -/
def binary64Fraction (w : Word) : BitVec 52 := w.extractLsb' 0 52

/-- R161: finite means that the exponent field is not all ones. -/
def isFinite64 (w : Word) : Bool := binary64Exponent w != 0x7FF#11

/-- The classes of R162's table. -/
inductive Binary64Class where
  | zero
  | subnormal
  | normal
  | infinity
  | nan
  deriving DecidableEq, Repr

/-- The class of a pattern (R162), from its exponent and fraction alone. -/
def binary64Class (w : Word) : Binary64Class :=
  if binary64Exponent w = 0 then
    if binary64Fraction w = 0 then .zero else .subnormal
  else if binary64Exponent w = 0x7FF#11 then
    if binary64Fraction w = 0 then .infinity else .nan
  else .normal

end Sys2Proof.Machine
end

