-- ==== Sys2Proof/Machine/Params.lean ====
section
/-! DEFINITION. The build parameters of R5 that have one value on this hardware. -/

namespace Sys2Proof.Machine

/-- `RESEED_RELOAD` (R5, R112): the countdown after a reseed. -/
def reseedReload : BitVec 11 := 1000

/-- `CNT_INIT` (R5, R100): the countdown after a SEED. -/
def cntInit : BitVec 11 := 0

/-- `ROT_OUT` (R5): the rotate amount of the output scrambler. -/
def rotOut : Nat := 23

/-- `SHL_T` (R5): the left shift for `t`. -/
def shlT : Nat := 17

/-- `ROT_S3` (R5): the rotate amount for `s3` in the update. -/
def rotS3 : Nat := 45

end Sys2Proof.Machine
end

