-- ==== Sys2Proof/Machine/Operands.lean ====
section
/-! DEFINITION. The operand forms: the register index of RDREG (R181), the seed words of SEED (R65, R100), the rotate
amount of ROTL (R63). Their places in a command stand in Decode.lean. -/

namespace Sys2Proof.Machine

/-- `REG(r)` (R181); none for the indices 7..63, which name no register. -/
def readReg (r : BitVec 6) (s : State) : Option Word :=
  match r.toNat with
  | 0 => some s.gen.words.s0
  | 1 => some s.gen.words.s1
  | 2 => some s.gen.words.s2
  | 3 => some s.gen.words.s3
  | 4 => some (s.gen.cnt.setWidth 64)
  | 5 => some s.gen.ndraw
  | 6 => some s.status
  | _ => none

/-- The indices whose register belongs to the generator, and so needs `SEEDED = 1` (R180, R202). -/
def regNeedsSeed (r : BitVec 6) : Bool := r.toNat ≤ 5

/-- The generator SEED constructs from its four words: `cnt = CNT_INIT`, `ndraw = 0` (R100). -/
def Generator.ofSeed (d0 d1 d2 d3 : Word) : Generator where
  words := ⟨d0, d1, d2, d3⟩
  cnt := cntInit
  ndraw := 0

/-- The rotate amount `k = A`, in 0..63 (R63, R92). -/
def rotateAmount (k : BitVec 6) : Nat := k.toNat

end Sys2Proof.Machine
end

