-- ==== Sys2Proof/Machine/Ops.lean ====
section
/-! DEFINITION. The operations all commands share: the response (R67), the entry into a fault (R208), the answer of a
FAULTED block (R205), the check for a generator (R202), and the rotator (R90). There is no return from a fault (R210):
only reset leaves FAULTED (Machine/Port.lean). -/

namespace Sys2Proof.Machine

/-- `respond(status, data)` (R11, R67): the command's one response now waits for the host. -/
def respond (status : BitVec 4) (data : Word) (s : State) : State :=
  { s with rsp := some ⟨status, data⟩ }

/-- The fault record of R208: `FAULTED <- 1`, `ECODE <- code(F)`. -/
def recordFault (f : Cause) (s : State) : State :=
  { s with faulted := true, ecode := f.code }

/-- `raise F` (R208): record the fault, then answer with its code and the STATUS read after the two writes. -/
def raise (f : Cause) (s : State) : State :=
  let s := recordFault f s
  respond f.code s.status s

/-- The answer of a block that is already FAULTED (R205): HALTED with STATUS, and nothing changes. -/
def halted (s : State) : State := respond statusHalted s.status s

/-- Check 1 of R209, before every other: a FAULTED block answers HALTED. -/
def unlessFaulted (k : State → State) (s : State) : State :=
  if s.faulted then halted s else k s

/-- Check 4 of R209: a command that needs the generator raises NotSeeded while `SEEDED = 0` (R202). -/
def requireSeeded (k : State → State) (s : State) : State :=
  if s.seeded then k s else raise .notSeeded s

/-- R90: `((x << k) | (x >> (64 - k)))` on exactly 64 bits, both shifts logical. For `k = 0` it is `x`, since
`x >> 64 = 0` (R9, R91). -/
def rotl64 (x : Word) (k : Nat) : Word := (x <<< k) ||| (x >>> (64 - k))

end Sys2Proof.Machine
end

