-- ==== Sys2Proof/Machine/Sha256.lean ====
section
/-! DEFINITION. SHA-256 of a 32-byte message, as R113–R119 transcribe it: the hash `HASH256` of this hardware (R5, D1). -/

namespace Sys2Proof.Machine

/-! ## Functions on 32-bit values (R10, R115) -/

/-- `ROTR32` (R10), for 1 ≤ n ≤ 31. -/
def rotr32 (x : U32) (n : Nat) : U32 := (x >>> n) ||| (x <<< (32 - n))

/-- `SHR32` (R10). -/
def shr32 (x : U32) (n : Nat) : U32 := x >>> n

/-- `Ch` (R115). -/
def shaCh (e f g : U32) : U32 := (e &&& f) ^^^ (~~~e &&& g)

/-- `Maj` (R115). -/
def shaMaj (a b c : U32) : U32 := (a &&& b) ^^^ (a &&& c) ^^^ (b &&& c)

/-- `Sigma0`, of the compression (R115). -/
def shaBigSigma0 (a : U32) : U32 := rotr32 a 2 ^^^ rotr32 a 13 ^^^ rotr32 a 22

/-- `Sigma1`, of the compression (R115). -/
def shaBigSigma1 (e : U32) : U32 := rotr32 e 6 ^^^ rotr32 e 11 ^^^ rotr32 e 25

/-- `sigma0`, of the schedule (R115). -/
def shaSmallSigma0 (x : U32) : U32 := rotr32 x 7 ^^^ rotr32 x 18 ^^^ shr32 x 3

/-- `sigma1`, of the schedule (R115). -/
def shaSmallSigma1 (x : U32) : U32 := rotr32 x 17 ^^^ rotr32 x 19 ^^^ shr32 x 10

/-! ## Constants (R116, R117) -/

/-- Eight 32-bit values: the working variables `a .. h`, or the hash value `H[0..7]` (R116, R118). -/
structure Sha8 where
  a : U32
  b : U32
  c : U32
  d : U32
  e : U32
  f : U32
  g : U32
  h : U32
  deriving DecidableEq, Repr

/-- The initial hash value `H[0..7]` (R116). -/
def shaInit : Sha8 where
  a := 0x6a09e667#32
  b := 0xbb67ae85#32
  c := 0x3c6ef372#32
  d := 0xa54ff53a#32
  e := 0x510e527f#32
  f := 0x9b05688c#32
  g := 0x1f83d9ab#32
  h := 0x5be0cd19#32

/-- `K[0..15]` (R117). -/
def shaK0 : List U32 :=
  [0x428a2f98#32, 0x71374491#32, 0xb5c0fbcf#32, 0xe9b5dba5#32, 0x3956c25b#32, 0x59f111f1#32, 0x923f82a4#32, 0xab1c5ed5#32,
   0xd807aa98#32, 0x12835b01#32, 0x243185be#32, 0x550c7dc3#32, 0x72be5d74#32, 0x80deb1fe#32, 0x9bdc06a7#32, 0xc19bf174#32]

/-- `K[16..31]` (R117). -/
def shaK1 : List U32 :=
  [0xe49b69c1#32, 0xefbe4786#32, 0x0fc19dc6#32, 0x240ca1cc#32, 0x2de92c6f#32, 0x4a7484aa#32, 0x5cb0a9dc#32, 0x76f988da#32,
   0x983e5152#32, 0xa831c66d#32, 0xb00327c8#32, 0xbf597fc7#32, 0xc6e00bf3#32, 0xd5a79147#32, 0x06ca6351#32, 0x14292967#32]

/-- `K[32..47]` (R117). -/
def shaK2 : List U32 :=
  [0x27b70a85#32, 0x2e1b2138#32, 0x4d2c6dfc#32, 0x53380d13#32, 0x650a7354#32, 0x766a0abb#32, 0x81c2c92e#32, 0x92722c85#32,
   0xa2bfe8a1#32, 0xa81a664b#32, 0xc24b8b70#32, 0xc76c51a3#32, 0xd192e819#32, 0xd6990624#32, 0xf40e3585#32, 0x106aa070#32]

/-- `K[48..63]` (R117). -/
def shaK3 : List U32 :=
  [0x19a4c116#32, 0x1e376c08#32, 0x2748774c#32, 0x34b0bcb5#32, 0x391c0cb3#32, 0x4ed8aa4a#32, 0x5b9cca4f#32, 0x682e6ff3#32,
   0x748f82ee#32, 0x78a5636f#32, 0x84c87814#32, 0x8cc70208#32, 0x90befffa#32, 0xa4506ceb#32, 0xbef9a3f7#32, 0xc67178f2#32]

/-- The round constants `K[0..63]` (R117). -/
def shaK : List U32 := shaK0 ++ shaK1 ++ shaK2 ++ shaK3

/-! ## Padding (R113) -/

/-- The padded block of a 32-byte message, as bytes: the message, 0x80, 23 zero bytes, the length 256 as a 64-bit
big-endian number (R113). -/
def shaPad (msg : List Byte) : List Byte :=
  msg ++ [0x80#8] ++ List.replicate 23 0x00#8
    ++ [0x00#8, 0x00#8, 0x00#8, 0x00#8, 0x00#8, 0x00#8, 0x01#8, 0x00#8]

/-- A byte sequence read as big-endian 32-bit words (R113). -/
def u32sBE : List Byte → List U32
  | b0 :: b1 :: b2 :: b3 :: rest => (b0 ++ b1 ++ b2 ++ b3) :: u32sBE rest
  | _ => []

/-! ## Message schedule (R114) -/

/-- The next schedule word, where `w` holds the earlier ones, NEWEST FIRST: `w[0] = W[t-1]`, so `W[t-2]`, `W[t-7]`,
`W[t-15]`, `W[t-16]` stand at 1, 6, 14 and 15 (R114). -/
def shaNextWord (w : List U32) : U32 :=
  shaSmallSigma1 (w.getD 1 0) + w.getD 6 0 + shaSmallSigma0 (w.getD 14 0) + w.getD 15 0

/-- `n` further words of the schedule, newest first. -/
def shaExtend : Nat → List U32 → List U32
  | 0, w => w
  | n + 1, w => shaExtend n (shaNextWord w :: w)

/-- `W[0..63]` from the block's sixteen words (R114). -/
def shaSchedule (block : List U32) : List U32 := (shaExtend 48 block.reverse).reverse

/-! ## Compression (R118) -/

/-- One round with its `K[t]` and `W[t]` (R118). -/
def shaRound (v : Sha8) (kw : U32 × U32) : Sha8 :=
  let t1 := v.h + shaBigSigma1 v.e + shaCh v.e v.f v.g + kw.1 + kw.2
  let t2 := shaBigSigma0 v.a + shaMaj v.a v.b v.c
  ⟨t1 + t2, v.a, v.b, v.c, v.d + t1, v.e, v.f, v.g⟩

/-- `H'[0..7]` of one block from the initial hash value (R118). -/
def shaCompress (block : List U32) : Sha8 :=
  let v := (shaK.zip (shaSchedule block)).foldl shaRound shaInit
  ⟨shaInit.a + v.a, shaInit.b + v.b, shaInit.c + v.c, shaInit.d + v.d,
   shaInit.e + v.e, shaInit.f + v.f, shaInit.g + v.g, shaInit.h + v.h⟩

/-! ## Digest (R119) -/

/-- `BE4` (R119): a 32-bit word as four bytes, most significant first. -/
def be4 (x : U32) : List Byte :=
  [x.extractLsb' 24 8, x.extractLsb' 16 8, x.extractLsb' 8 8, x.extractLsb' 0 8]

/-- The 32-byte digest of a 32-byte message (R113–R119). -/
def sha256 (msg : List Byte) : List Byte :=
  let h := shaCompress (u32sBE (shaPad msg))
  be4 h.a ++ be4 h.b ++ be4 h.c ++ be4 h.d ++ be4 h.e ++ be4 h.f ++ be4 h.g ++ be4 h.h

end Sys2Proof.Machine
end

