-- ==== Sys2Proof/Machine/Reseed.lean ====
section
/-! DEFINITION. The reseed hash mixer (R110–R112): the state words become the digest of their big-endian bytes. -/

namespace Sys2Proof.Machine

/-- `BE8` (R10): byte j is `w[63-8j : 56-8j]`. -/
def be8 (w : Word) : List Byte := (List.range 8).map fun j => w.extractLsb' (56 - 8 * j) 8

/-- `u64be` (R10): the word whose byte j, most significant first, is the sequence's j-th. -/
def u64be (bytes : List Byte) : Word := bytes.foldl (fun acc b => (acc <<< 8) ||| b.setWidth 64) 0

/-- The 32-byte hash message (R41). -/
def Words.bytes (w : Words) : List Byte := be8 w.s0 ++ be8 w.s1 ++ be8 w.s2 ++ be8 w.s3

/-- The state words read from a 32-byte digest (R42). -/
def Words.ofBytes (d : List Byte) : Words where
  s0 := u64be (d.take 8)
  s1 := u64be ((d.drop 8).take 8)
  s2 := u64be ((d.drop 16).take 8)
  s3 := u64be ((d.drop 24).take 8)

/-- `HASH256` of this hardware: SHA-256 (R5, D1, C5). -/
def hash256 (msg : List Byte) : List Byte := sha256 msg

/-- The reseed (R111): all four words are replaced together, and depend on the four old words alone. -/
def reseed (w : Words) : Words := Words.ofBytes (hash256 w.bytes)

end Sys2Proof.Machine
end

