-- ==== Sys2Proof/Machine/Draw.lean ====
section
/-! DEFINITION. The internal draw (R140–R145) and the command NEXT (R144). -/

namespace Sys2Proof.Machine

/-- The countdown of R140, with the value -1 that exists only inside a draw (R24): decrement; where the result is
negative, reseed and reload (R110, R112). -/
def Generator.countdown (g : Generator) : Generator :=
  let c : Int := (g.cnt.toNat : Int) - 1
  if c < 0 then { g with words := reseed g.words, cnt := reseedReload }
  else { g with cnt := BitVec.ofInt 11 c }

/-- The output scrambler (R140, R141): `rotl64(s0 + s3, 23) + s0`. -/
def Words.scramble (w : Words) : Word := rotl64 (w.s0 + w.s3) rotOut + w.s0

/-- The update lines of R140, in their order (R142). -/
def Words.update (w : Words) : Words :=
  let t := w.s1 <<< shlT
  let s2 := w.s2 ^^^ w.s0
  let s3 := w.s3 ^^^ w.s1
  let s1 := w.s1 ^^^ s2
  let s0 := w.s0 ^^^ s3
  let s2 := s2 ^^^ t
  let s3 := rotl64 s3 rotS3
  ⟨s0, s1, s2, s3⟩

/-- `Draw()` (R140): the result is computed after the possible reseed and before the update (R141), and `ndraw` counts
every draw (R143). It never fails. -/
def Generator.draw (g : Generator) : Word × Generator :=
  let g := g.countdown
  (g.words.scramble, { g with words := g.words.update, ndraw := g.ndraw + 1 })

/-- The generator after `n` internal draws. -/
def Generator.after : Nat → Generator → Generator
  | 0, g => g
  | n + 1, g => Generator.after n g.draw.2

/-- The result of the draw that follows `n` internal draws: the stream that NEXT and NEXTF read (R47). -/
def Generator.word (n : Nat) (g : Generator) : Word := (Generator.after n g).draw.1

/-- NEXT (R144): one draw, whose raw result is the answer, a NaN or infinity pattern too (R206). -/
def execNext (s : State) : Host.Outcome State Fault Refusal :=
  .next (unlessFaulted
    (requireSeeded fun s => respond statusOk s.gen.draw.1 { s with gen := s.gen.draw.2 }) s)

end Sys2Proof.Machine
end

