-- ==== Sys2Proof/Machine/Finite.lean ====
section
/-! DEFINITION. The finite-double draw: the micro-step (R164) and the command NEXTF (R163). -/

namespace Sys2Proof.Machine

/-- One draw of a NEXTF, and its count (R163). -/
def drawAndCount (s : State) : State :=
  { s with gen := s.gen.draw.2, nfTries := s.nfTries + 1 }

/-- One micro-step of a NEXTF (R163, R164): a draw and its test. A finite word is the answer; a non-finite one is
discarded silently (R206), and the block stays busy without a response unless the cap is reached (R165, R204). -/
def nextfMicroStep (s : State) : State :=
  let w := s.gen.draw.1
  let s := drawAndCount s
  if isFinite64 w then respond statusOk w s
  else if s.config.finiteCap = some s.nfTries then raise .retryExhausted s
  else s

/-- NEXTF (R163): `nf_tries <- 0`, then the first micro-step. Each further micro-step is a step of its own
(`clockEdge` in Machine/Port.lean), so that a NEXTF that never finds a finite draw is an infinite run (R164). -/
def execNextf (s : State) : Host.Outcome State Fault Refusal :=
  .next (unlessFaulted
    (requireSeeded fun s => nextfMicroStep { s with nfTries := 0, rsp := none }) s)

end Sys2Proof.Machine
end

