-- ==== Sys2Proof/Machine/ReadBack.lean ====
section
/-! DEFINITION. The command RDREG (R180). -/

namespace Sys2Proof.Machine

/-- RDREG (R180): answers the register; `r ≥ 7` is IllegalCommand (R203, checked first), and `r ≤ 5` needs a generator
(R202). No side effect (R182). -/
def execRdreg (r : BitVec 6) (s : State) : Host.Outcome State Fault Refusal :=
  .next (unlessFaulted
    (fun s =>
      match readReg r s with
      | none => raise .illegalCommand s
      | some v => if regNeedsSeed r then requireSeeded (respond statusOk v) s else respond statusOk v s)
    s)

end Sys2Proof.Machine
end

