-- ==== Sys2Proof/Machine/Rotate.lean ====
section
/-! DEFINITION. The command ROTL (R92). -/

namespace Sys2Proof.Machine

/-- ROTL (R92): answers the rotated operand; it needs no generator and writes no state of R20. -/
def execRotl (k : BitVec 6) (x : Word) (s : State) : Host.Outcome State Fault Refusal :=
  .next (unlessFaulted (respond statusOk (rotl64 x (rotateAmount k))) s)

end Sys2Proof.Machine
end

