-- ==== Sys2Proof/Machine/Seed.lean ====
section
/-! DEFINITION. The command SEED (R100–R103). -/

namespace Sys2Proof.Machine

/-- A successful SEED (R100, R102): whatever generator there was is replaced, and the block is SEEDED. -/
def construct (g : Generator) (s : State) : State := { s with gen := g, seeded := true }

/-- SEED (R100): four words construct a fresh generator; any other count, 0 among them, is InvalidSeed (R101). -/
def execSeed (n : BitVec 3) (d0 d1 d2 d3 : Word) (s : State) : Host.Outcome State Fault Refusal :=
  .next (unlessFaulted
    (fun s => if n = 4#3 then respond statusOk 0 (construct (Generator.ofSeed d0 d1 d2 d3) s) else raise .invalidSeed s)
    s)

end Sys2Proof.Machine
end

