-- ==== Sys2Proof/Machine/Dispatch.lean ====
section
/-! DEFINITION. One arm per constructor of `Instr`: the meaning of each command. -/

namespace Sys2Proof.Machine

def exec (i : Instr) (s : State) : Host.Outcome State Fault Refusal :=
  match i with
  | .seed n d0 d1 d2 d3 => Sys2Proof.Machine.execSeed n d0 d1 d2 d3 s
  | .next => Sys2Proof.Machine.execNext s
  | .nextf => Sys2Proof.Machine.execNextf s
  | .rotl k x => Sys2Proof.Machine.execRotl k x s
  | .rdreg r => Sys2Proof.Machine.execRdreg r s

end Sys2Proof.Machine
end

