-- ==== Sys2Proof/Machine/Port.lean ====
section
/-! DEFINITION. The ports and the handshake (R68–R71), the accepting of a command, reset (R230, R231), and what happens
at one rising edge of `clk` (R69). -/

namespace Sys2Proof.Machine

/-! ## Outputs (R68) -/

/-- `cmd_ready` (R71, R230): no command in progress, and `rst = 0`. -/
def State.cmdReady (s : State) (rst : Bool) : Bool := !s.busy && !rst

/-- `rsp_valid` (R230): a response waits, and `rst = 0`. -/
def State.rspValid (s : State) (rst : Bool) : Bool := s.rsp.isSome && !rst

/-- The `fault` output (R211). -/
def State.faultOut (s : State) : Bool := s.faulted

/-- The block's outputs (R68). DESIGN CHOICE (log entry 9): `rsp_status` and `rsp_data` are one Option, without a value
while `rsp_valid = 0`. -/
structure PortOut where
  cmdReady : Bool
  rspValid : Bool
  rsp : Option Response
  fault : Bool
  deriving DecidableEq, Repr

/-- What the block drives while the host drives `rst`. -/
def State.outputs (s : State) (rst : Bool) : PortOut where
  cmdReady := s.cmdReady rst
  rspValid := s.rspValid rst
  rsp := if s.rspValid rst then s.rsp else none
  fault := s.faultOut

/-! ## The host's side -/

/-- The inputs of an edge at which the host offers a command. -/
def PortIn.offering (c : Command) : PortIn := ⟨false, true, c, false⟩

/-- The inputs of an edge at which the host is ready to take a response and offers nothing. -/
def PortIn.taking : PortIn := ⟨false, false, ⟨0, 0⟩, true⟩

/-- The inputs of an edge at which the host does nothing. -/
def PortIn.quiet : PortIn := ⟨false, false, ⟨0, 0⟩, false⟩

/-- What a host drives that only keeps its duty of R70: it goes on holding what it offers. -/
def State.holding (s : State) : PortIn :=
  match s.offer with
  | some c => PortIn.offering c
  | none => PortIn.quiet

/-- The host's inputs at the next rising edge: the first entry of `pins`; with none left, DESIGN CHOICE (log entry 3),
a host that only holds what it offers. -/
def State.drive (s : State) : PortIn := s.pins.headD s.holding

/-- R70's duty of the host: a command offered and not yet transferred is still offered, unchanged. -/
def State.holdKept (s : State) (p : PortIn) : Bool :=
  match s.offer with
  | none => true
  | some c => p.cmdValid && decide (p.cmd = c)

/-- After an edge without a transfer the host owes what it is offering (R70). -/
def noteOffer (p : PortIn) (s : State) : State :=
  { s with offer := if p.cmdValid then some p.cmd else none }

/-! ## Commands and responses -/

/-- The start of a command (R71): `busy <- 1`; nothing of an earlier command is left (R31). -/
def beginCommand (s : State) : State :=
  { s with busy := true, nfTries := 0, rsp := none, offer := none }

/-- What an accepted command does: the meaning of the instruction it decodes to, or, for an illegal word, check 1 and
check 2 of R209 (R203, R205). -/
def perform (c : Command) (s : State) : Host.Outcome State Fault Refusal :=
  match decode c with
  | .instr i => exec i s
  | .illegal _ => .next (unlessFaulted (raise .illegalCommand) s)

/-- A transfer on the command channel (R70, R71). -/
def accept (c : Command) (s : State) : Host.Outcome State Fault Refusal := perform c (beginCommand s)

/-- A transfer on the response channel (R70): the response leaves, and `busy <- 0` (R71). -/
def release (s : State) : State := { s with busy := false, rsp := none }

/-- A NEXTF is in progress: a command was accepted and there is no response yet (R31, R164). -/
def State.computing (s : State) : Bool := s.busy && s.rsp.isNone

/-! ## Reset (R230, R231) -/

/-- Reset sets every piece of state to its value of R32 and discards a command in progress and a pending response. The
build (R28) and the host's later inputs are no state of the block. -/
def resetBlock (s : State) : State := { State.reset with config := s.config, pins := s.pins }

/-! ## One rising edge (R69) -/

/-- What the block does at an edge at which no command is transferred. -/
def settle (p : PortIn) (s : State) : State :=
  if s.rspValid p.rst && p.rspReady then release s
  else if s.computing then nextfMicroStep s
  else s

/-- One rising edge with the host's inputs `p`: reset first (R69); a broken handshake is refused (R70, U7); then a
transfer of a command, or a transfer of a response, or a micro-step of the NEXTF in progress, or nothing (R218). -/
def clockEdge (p : PortIn) (s : State) : Host.Outcome State Fault Refusal :=
  if p.rst then .next (resetBlock s)
  else if !s.holdKept p then .refused .hostBrokeHandshake
  else if p.cmdValid && s.cmdReady p.rst then accept p.cmd s
  else .next (noteOffer p (settle p s))

/-- The state with the first of the host's inputs consumed. -/
def State.advance (s : State) : State := { s with pins := s.pins.tail }

/-- The block at rest, the command on the port, and the host's other inputs after it. -/
def State.presented (c : Command) (s : State) : State :=
  { s with busy := false, rsp := none, offer := none, pins := PortIn.offering c :: s.pins }

end Sys2Proof.Machine
end

