-- ==== Sys2Proof/Machine/Step.lean ====
section
/-! DEFINITION. One step of the machine is one rising edge of `clk` with the inputs the host drives at it. -/

namespace Sys2Proof.Machine

/-- One rising edge (Machine/Port.lean). -/
def step (s : State) : Host.Outcome State Fault Refusal := clockEdge s.drive s.advance

/-- The same state with the command given by a word of spec/opcode_table.json on the port of an idle block (log entry
5): the next step accepts and runs it. -/
def State.withFetchWord (s : State) (nbits w : Nat) : State := s.presented (commandOfBits nbits w)

end Sys2Proof.Machine
end

