-- ==== Sys2Proof/Machine/Assembler.lean ====
section
/-! DEFINITION. The host-side assembler: the lines of R72, the pseudo-instructions of R73, and the reading of one line of
text. Nothing here is a command of the block. -/

namespace Sys2Proof.Machine

/-- One line of a program (R72, R73). -/
inductive AsmLine where
  /-- `SEED w0, ..., w(n-1)`. -/
  | seed (ws : List Word)
  /-- `NEXT`. -/
  | next
  /-- `NEXTF`. -/
  | nextf
  /-- `ROTL x, k`. -/
  | rotl (x : Word) (k : BitVec 6)
  /-- `RDREG reg`. -/
  | rdreg (r : BitVec 6)
  /-- `.raw`: an arbitrary command word and its data words. -/
  | raw (word : BitVec 32) (d0 d1 d2 d3 : Word)
  /-- `GEN n` (R73). -/
  | gen (n : Nat)
  /-- `SKIP n` (R73). -/
  | skip (n : Nat)
  deriving DecidableEq, Repr

/-- The commands a line stands for. A SEED has `N = n` for its n operands, of which those beyond the fourth are not
carried; data words without an operand carry 0 (R65: ignored). `GEN n` is n NEXTF, `SKIP n` is n NEXT (R73). -/
def AsmLine.commands : AsmLine → List Command
  | .seed ws =>
      [⟨seedWord (BitVec.ofNat 3 ws.length), dataBus (ws.getD 0 0) (ws.getD 1 0) (ws.getD 2 0) (ws.getD 3 0)⟩]
  | .next => [encode .next]
  | .nextf => [encode .nextf]
  | .rotl x k => [encode (.rotl k x)]
  | .rdreg r => [encode (.rdreg r)]
  | .raw word d0 d1 d2 d3 => [⟨word, dataBus d0 d1 d2 d3⟩]
  | .gen n => List.replicate n (encode .nextf)
  | .skip n => List.replicate n (encode .next)

/-! ## Reading a line of text (R72) -/

/-- The value of a digit in a base of at most 16. -/
def digitValue (base : Nat) (ch : Char) : Option Nat :=
  let n := ch.toNat
  let v :=
    if 48 ≤ n ∧ n ≤ 57 then n - 48
    else if 97 ≤ n ∧ n ≤ 102 then n - 87
    else if 65 ≤ n ∧ n ≤ 70 then n - 55
    else base
  if v < base then some v else none

/-- Digits, most significant first. -/
def digitsValue (base : Nat) : List Char → Nat → Option Nat
  | [], acc => some acc
  | ch :: rest, acc => (digitValue base ch).bind fun d => digitsValue base rest (acc * base + d)

/-- A number literal, decimal or `0x` hexadecimal (R72). -/
def numberLiteral : List Char → Option Nat
  | '0' :: 'x' :: d :: rest => digitsValue 16 (d :: rest) 0
  | d :: rest => digitsValue 10 (d :: rest) 0
  | [] => none

/-- A literal below a bound. -/
def literalBelow (bound : Nat) (cs : List Char) : Option Nat := (numberLiteral cs).filter (· < bound)

/-- A 64-bit operand. DESIGN CHOICE (log entry 8): a larger literal is no line of the syntax. -/
def wordLiteral (cs : List Char) : Option Word := (literalBelow (2 ^ 64) cs).map (BitVec.ofNat 64)

/-- A space or a tab. -/
def isBlank (ch : Char) : Bool := ch == ' ' || ch == '\t'

/-- A text without the blanks around it. -/
def trimBlanks (cs : List Char) : List Char := ((cs.dropWhile isBlank).reverse.dropWhile isBlank).reverse

/-- A text cut at every comma. -/
def splitCommas : List Char → List (List Char)
  | [] => [[]]
  | ch :: rest =>
    if ch = ',' then [] :: splitCommas rest
    else
      match splitCommas rest with
      | [] => [[ch]]
      | part :: parts => (ch :: part) :: parts

/-- The operands of a line, without the blanks around them; none where nothing stands after the mnemonic. -/
def operandTexts (cs : List Char) : List (List Char) :=
  if trimBlanks cs = [] then [] else (splitCommas cs).map trimBlanks

/-- The register names of RDREG, in the order of their indices (R72). -/
def registerNames : List (List Char) :=
  [['s', '0'], ['s', '1'], ['s', '2'], ['s', '3'], ['c', 'n', 't'], ['n', 'd', 'r', 'a', 'w'],
   ['s', 't', 'a', 't', 'u', 's']]

/-- A register operand: a name, or an index 0..6 (R72). -/
def registerOperand (cs : List Char) : Option (BitVec 6) :=
  match registerNames.idxOf? cs with
  | some i => some (BitVec.ofNat 6 i)
  | none => (literalBelow 7 cs).map (BitVec.ofNat 6)

/-- The operands of `SEED`: 0 to 7 words (R72). -/
def seedLine (ops : List (List Char)) : Option AsmLine :=
  if ops.length ≤ 7 then (ops.mapM wordLiteral).map .seed else none

/-- The operands of `.raw`: a 32-bit word, and four data words or none (R72). -/
def rawLine : List (List Char) → Option AsmLine
  | [w] => (literalBelow (2 ^ 32) w).map fun w => .raw (BitVec.ofNat 32 w) 0 0 0 0
  | [w, a, b, c, d] =>
    (literalBelow (2 ^ 32) w).bind fun w => (wordLiteral a).bind fun a => (wordLiteral b).bind fun b =>
      (wordLiteral c).bind fun c => (wordLiteral d).map fun d => .raw (BitVec.ofNat 32 w) a b c d
  | _ => none

/-- One line with a mnemonic of R72 or R73 and its operands. -/
def asmLine (mnemonic : List Char) (ops : List (List Char)) : Option AsmLine :=
  if mnemonic = ['S', 'E', 'E', 'D'] then seedLine ops
  else if mnemonic = ['N', 'E', 'X', 'T'] then (if ops = [] then some .next else none)
  else if mnemonic = ['N', 'E', 'X', 'T', 'F'] then (if ops = [] then some .nextf else none)
  else if mnemonic = ['R', 'O', 'T', 'L'] then
    match ops with
    | [x, k] => (wordLiteral x).bind fun x => (literalBelow 64 k).map fun k => .rotl x (BitVec.ofNat 6 k)
    | _ => none
  else if mnemonic = ['R', 'D', 'R', 'E', 'G'] then
    match ops with
    | [r] => (registerOperand r).map .rdreg
    | _ => none
  else if mnemonic = ['.', 'r', 'a', 'w'] then rawLine ops
  else if mnemonic = ['G', 'E', 'N'] then
    match ops with
    | [n] => (numberLiteral n).map .gen
    | _ => none
  else if mnemonic = ['S', 'K', 'I', 'P'] then
    match ops with
    | [n] => (numberLiteral n).map .skip
    | _ => none
  else none

/-- The commands of one line of text; `;` starts a comment, and a line with nothing before it stands for no command
(R72). None where the text is no line of the syntax. -/
def assembleLine (text : List Char) : Option (List Command) :=
  let code := trimBlanks (text.takeWhile (· != ';'))
  if code = [] then some []
  else
    (asmLine (code.takeWhile (!isBlank ·)) (operandTexts (code.dropWhile (!isBlank ·)))).map AsmLine.commands

/-- A program, one line of text per entry. -/
def assemble (lines : List (List Char)) : Option (List Command) := (lines.mapM assembleLine).map List.flatten

end Sys2Proof.Machine
end

