-- ==== Sys2Proof/Safety.lean ====
section
/-! DEFINITION. The terms the statements use: the invariant of a reachable state, what passes over the port at an edge
and in a run, conforming hosts, and which states cannot be told apart. -/

namespace Sys2Proof.Machine

/-! ## The invariant -/

/-- A response that may wait in the state (R67): OK from a block that is not FAULTED, or the code of the fault just
recorded or HALTED, with STATUS as its data. -/
def ResponseLegal (s : State) (r : Response) : Prop :=
  (r.status = statusOk ∧ s.faulted = false) ∨
  ((r.status = s.ecode ∨ r.status = statusHalted) ∧ s.faulted = true ∧ r.data = s.status)

/-- What holds of every state that a run from reset reaches. -/
structure BlockInv (s : State) : Prop where
  /-- R165: a cap is at least 1. -/
  capLegal : s.config.legal = true
  /-- R23: between draws the countdown is in 0..1000, once there is a generator. -/
  cntRange : s.seeded = true → s.gen.cnt.toNat ≤ 1000
  /-- R28: the legal values of `ECODE`. -/
  ecodeLegal : s.ecode.toNat ≤ 4
  /-- R28: `ECODE` is 0 while `FAULTED = 0`, and is a fault's code otherwise. -/
  faultRecorded : s.faulted = true ↔ s.ecode ≠ 0#4
  /-- R202: NotSeeded is only recorded without a generator. -/
  notSeededRecorded : s.ecode = Cause.notSeeded.code → s.seeded = false
  /-- R204: RetryExhausted is only recorded by a build with a cap, of a block that has a generator. -/
  retryRecorded : s.ecode = Cause.retryExhausted.code → s.config.finiteCap ≠ none ∧ s.seeded = true
  /-- R31: an idle block holds no response. -/
  idleEmpty : s.busy = false → s.rsp = none
  /-- R163: a NEXTF in progress has a generator and no fault, and has not reached its cap. -/
  computingReady : s.computing = true →
    s.seeded = true ∧ s.faulted = false ∧ ∀ c, s.config.finiteCap = some c → s.nfTries < c
  /-- R67: a waiting response is one of the legal ones. -/
  pendingLegal : ∀ r, s.rsp = some r → ResponseLegal s r

/-! ## Runs and what passes over the port -/

/-- `n` steps, stopping at the first that has no next state (the host's `Core.run`, on the machine's own types). -/
def run : Nat → State → Host.Outcome State Fault Refusal
  | 0, s => .next s
  | n + 1, s =>
    match step s with
    | .next t => run n t
    | .fault f => .fault f
    | .refused r => .refused r

/-- The command transferred at the next edge, if one is (R70). -/
def State.accepting (s : State) : Option Command :=
  let p := s.drive
  if !p.rst && s.holdKept p && p.cmdValid && s.cmdReady p.rst then some p.cmd else none

/-- The response transferred at the next edge, if one is (R70). -/
def State.delivering (s : State) : Option Response :=
  let p := s.drive
  if !p.rst && s.holdKept p && s.accepting.isNone && s.rspValid p.rst && p.rspReady then s.rsp else none

/-- The commands accepted in the next `n` steps, oldest first; none after a step without a next state. -/
def accepted : Nat → State → List Command
  | 0, _ => []
  | n + 1, s =>
    match step s with
    | .next t => s.accepting.toList ++ accepted n t
    | .fault _ => []
    | .refused _ => []

/-- The responses the host takes in the next `n` steps, oldest first; none after a step without a next state. -/
def delivered : Nat → State → List Response
  | 0, _ => []
  | n + 1, s =>
    match step s with
    | .next t => s.delivering.toList ++ delivered n t
    | .fault _ => []
    | .refused _ => []

/-- The responses of a sequence of commands when each is carried out whole, one after the other, with no port between
(R45, R47). -/
def transact : List Command → State → List Response
  | [], _ => []
  | c :: cs, s =>
    match perform c s with
    | .next t => t.rsp.toList ++ transact cs t
    | .fault _ => []
    | .refused _ => []

/-- How many commands are in progress: 1 or 0 (R71). -/
def inProgress (s : State) : Nat := if s.busy then 1 else 0

/-! ## Hosts -/

/-- The next `n` edges are no reset. -/
def NoReset (n : Nat) (s : State) : Prop := ∀ p ∈ s.pins.take n, p.rst = false

/-- The host neither resets nor offers a command in the first `n` of these edges. -/
def QuietFor (n : Nat) (pins : List PortIn) : Prop := ∀ p ∈ pins.take n, p.rst = false ∧ p.cmdValid = false

/-- A host that offers each command in turn and takes its response at the next edge. -/
def serve : List Command → List PortIn
  | [] => []
  | c :: cs => PortIn.offering c :: PortIn.taking :: serve cs

/-- At the next edge the command `c` is transferred to the idle block. -/
def Presents (s : State) (c : Command) : Prop :=
  s.busy = false ∧ s.drive.rst = false ∧ s.drive.cmdValid = true ∧ s.drive.cmd = c ∧ s.holdKept s.drive = true

/-! ## States that cannot be told apart -/

/-- Two states that differ at most in the six registers of the generator, and not even there once `SEEDED = 1`: those
registers hold no value before a SEED (R26, R32). -/
def SameButUnwritten (s t : State) : Prop := t = { s with gen := t.gen } ∧ (s.seeded = true → s.gen = t.gen)

end Sys2Proof.Machine
end

