-- ==== Sys2Proof/Certificates/Slice0/Obligations.lean ====
section
/-! DEFINITION. The statements for the provers. Each `def Obligations.<Name> : Prop` is an entry of OBLIGATIONS.json. A
statement that gives the whole next state by an update of `s` states the frame as well: every field that the update does
not name is unchanged. `statusWord seeded true code` is STATUS right after a fault (R208); its bits are stated by
`StatusShowsTheFlagsAndZeros`. -/

open Sys2Proof Sys2Proof.Machine

/-! ## Encoding and decoding (R60–R66) -/

/-- R61, R72: words written out from the spec's tables decode to the instructions they stand for, and reserved words are
rejected by the right name. -/
def Obligations.TableWordsDecodeAsTheSpecSays : Prop :=
  decode ⟨0x00000041#32, dataBus 1 2 3 4⟩ = .instr (.seed 4#3 1 2 3 4) ∧
  decode ⟨0x00000002#32, 0⟩ = .instr .next ∧
  decode ⟨0x00000003#32, 0⟩ = .instr .nextf ∧
  decode ⟨0x00003F04#32, dataBus 1 0 0 0⟩ = .instr (.rotl 63#6 1) ∧
  decode ⟨0x00000605#32, 0⟩ = .instr (.rdreg 6#6) ∧
  decode ⟨0x00000006#32, 0⟩ = .illegal .reservedOp ∧
  decode ⟨0x80000002#32, 0⟩ = .illegal .reservedBits ∧
  decode ⟨0x00000014#32, 0⟩ = .illegal .countNotZero ∧
  decode ⟨0x00000102#32, 0⟩ = .illegal .argumentNotZero ∧
  decode ⟨0x00000705#32, 0⟩ = .illegal .noSuchRegister

/-- R60, R65, R72: decoding an encoded well-formed instruction gives it back, with every operand at every value. -/
def Obligations.DecodingAnEncodedInstructionGivesItBack : Prop :=
  ∀ i : Instr, i.wellFormed = true → decode (encode i) = .instr i

/-- R60, R65: an instruction the decoder gives is well formed, and encoding it gives back the command's word and the data
words the instruction uses. -/
def Obligations.EncodingADecodedCommandGivesItBack : Prop :=
  ∀ (c : Command) (i : Instr), decode c = .instr i →
    i.wellFormed = true ∧ (encode i).word = c.word ∧
    ((∃ n d0 d1 d2 d3, i = .seed n d0 d1 d2 d3) → (encode i).data = c.data) ∧
    ((∃ k x, i = .rotl k x) → dataWord (encode i).data 0 = dataWord c.data 0)

/-- R66: the decoder accepts exactly the words with `legal(cmd)`, and which words those are: every SEED word with any
`N`, every ROTL word with any `A`, seven RDREG words, one NEXT word and one NEXTF word. A SEED word with `N` other than 4
is InvalidSeed, and a word that is not legal is IllegalCommand. -/
def Obligations.DecoderAcceptsExactlyTheLegalWords : Prop :=
  ∀ c : Command,
    ((decode c).toOption.isSome = legal c.word) ∧
    ((∃ n d0 d1 d2 d3, decode c = .instr (.seed n d0 d1 d2 d3)) ↔ ∃ n : BitVec 3, c.word = 0x1#32 ||| n.setWidth 32 <<< 4) ∧
    (decode c = .instr .next ↔ c.word = 0x00000002#32) ∧
    (decode c = .instr .nextf ↔ c.word = 0x00000003#32) ∧
    ((∃ k x, decode c = .instr (.rotl k x)) ↔ ∃ k : BitVec 6, c.word = 0x4#32 ||| k.setWidth 32 <<< 8) ∧
    ((∃ r, decode c = .instr (.rdreg r)) ↔
      c.word ∈ [0x005#32, 0x105#32, 0x205#32, 0x305#32, 0x405#32, 0x505#32, 0x605#32]) ∧
    (∀ (n : BitVec 3) (s : State), c.word = 0x1#32 ||| n.setWidth 32 <<< 4 → n ≠ 4#3 → s.faulted = false →
      perform c s = .next (raise .invalidSeed s)) ∧
    (∀ s : State, legal c.word = false → s.faulted = false → perform c s = .next (raise .illegalCommand s))

/-- R65: data words a command does not use have no effect. Two commands with one word do the same to every state unless
the word is a ROTL word and `d_0` differs, or it is the valid SEED word and the data differ. -/
def Obligations.UnusedDataWordsHaveNoEffect : Prop :=
  ∀ (c d : Command) (s : State), c.word = d.word →
    (opField c.word = 0x4#4 → dataWord c.data 0 = dataWord d.data 0) →
    (c.word = 0x00000041#32 → c.data = d.data) →
    perform c s = perform d s

/-- R72, R73: the assembler's words for SEED, ROTL and RDREG, and the expansions of `GEN n` and `SKIP n`. That the data bus
carries 0 where a line has no operand (RDREG, GEN and SKIP here) is the model's choice (log entries 8 and 12). -/
def Obligations.AssemblerLinesGiveTheirCommands : Prop :=
  (∀ ws : List Word, ws.length ≤ 7 →
    ∃ d, (AsmLine.seed ws).commands = [⟨0x1#32 ||| BitVec.ofNat 32 ws.length <<< 4, d⟩] ∧
      ∀ i, i < 4 → ∀ w, ws[i]? = some w → dataWord d i = w) ∧
  (∀ x k, ∃ d, (AsmLine.rotl x k).commands = [⟨0x4#32 ||| k.setWidth 32 <<< 8, d⟩] ∧ dataWord d 0 = x) ∧
  (∀ r, (AsmLine.rdreg r).commands = [⟨0x5#32 ||| r.setWidth 32 <<< 8, 0⟩]) ∧
  (∀ n, (AsmLine.gen n).commands = List.replicate n ⟨0x00000003#32, 0⟩) ∧
  (∀ n, (AsmLine.skip n).commands = List.replicate n ⟨0x00000002#32, 0⟩)

/-! ## The rotator and ROTL (R90–R93) -/

/-- R90: the rotator's formula, masked to 64 bits, and its bits: bit j of the result is bit `(j - k) mod 64` of `x`. -/
def Obligations.RotateMovesEveryBitByK : Prop :=
  ∀ (x : Word) (k : Nat), 1 ≤ k → k ≤ 63 →
    rotl64 x k = ((x <<< k) ||| (x >>> (64 - k))) &&& 0xFFFFFFFFFFFFFFFF#64 ∧
    ∀ j, j < 64 → (rotl64 x k).getLsbD j = x.getLsbD ((j + (64 - k)) % 64)

/-- R93 and, for the amount 0, R91: rotations invert and compose. -/
def Obligations.RotationsInvertAndCompose : Prop :=
  (∀ (x : Word) (k : Nat), 1 ≤ k → k ≤ 63 → rotl64 (rotl64 x k) (64 - k) = x) ∧
  (∀ (x : Word) (a b : Nat), a ≤ 63 → b ≤ 63 → rotl64 (rotl64 x a) b = rotl64 x ((a + b) % 64)) ∧
  (∀ x : Word, rotl64 x 0 = x)

/-- R92: ROTL completes in every state that is not FAULTED, seeded or not, for every amount 0..63 and every operand; its
answer is the rotated operand and nothing else changes. -/
def Obligations.RotlAnswersTheRotatedWord : Prop :=
  ∀ (k : BitVec 6) (x : Word) (s : State), s.faulted = false →
    exec (.rotl k x) s = .next { s with rsp := some ⟨0#4, rotl64 x k.toNat⟩ }

/-- R92: the whole rule of ROTL, for every command with its `OP`, in every state, with the rule's corner cases: the
amount 0, the two words that every amount leaves alone, and the amount 63. -/
def Obligations.RotlCommandFollowsItsRule : Prop :=
  (∀ (c : Command) (s : State), opField c.word = 0x4#4 →
    perform c s = .next
      (if s.faulted = true then { s with rsp := some ⟨0xF#4, s.status⟩ }
       else if legal c.word = false then
         { s with faulted := true, ecode := 3#4, rsp := some ⟨3#4, statusWord s.seeded true 3#4⟩ }
       else { s with rsp := some ⟨0#4, rotl64 (dataWord c.data 0) (argField c.word).toNat⟩ })) ∧
  (∀ x : Word, rotl64 x 0 = x ∧ rotl64 x 63 = (x >>> 1) ||| (x <<< 63)) ∧
  (∀ k, k ≤ 63 → rotl64 0#64 k = 0#64 ∧ rotl64 0xFFFFFFFFFFFFFFFF#64 k = 0xFFFFFFFFFFFFFFFF#64)

/-! ## SEED (R100–R103) -/

/-- R100: SEED with four words completes in every state that is not FAULTED, whatever the words are; it loads them, clears
`cnt` and `ndraw`, sets SEEDED, answers (0, 0), and changes nothing else. -/
def Obligations.SeedOfFourWordsConstructsAGenerator : Prop :=
  ∀ (d0 d1 d2 d3 : Word) (s : State), s.faulted = false →
    exec (.seed 4#3 d0 d1 d2 d3) s = .next
      { s with gen := ⟨⟨d0, d1, d2, d3⟩, 0#11, 0#64⟩, seeded := true, rsp := some ⟨0#4, 0#64⟩ }

/-- R101: a seed that is absent or not of four words raises InvalidSeed and changes nothing but the fault record. -/
def Obligations.SeedOfAnyOtherCountIsInvalid : Prop :=
  ∀ (n : BitVec 3) (d0 d1 d2 d3 : Word) (s : State), n ≠ 4#3 → s.faulted = false →
    exec (.seed n d0 d1 d2 d3) s = .next
      { s with faulted := true, ecode := 1#4, rsp := some ⟨1#4, statusWord s.seeded true 1#4⟩ }

/-- R100: the whole rule of SEED, for every command with its `OP`, in every state. -/
def Obligations.SeedCommandFollowsItsRule : Prop :=
  ∀ (c : Command) (s : State), opField c.word = 0x1#4 →
    perform c s = .next
      (if s.faulted = true then { s with rsp := some ⟨0xF#4, s.status⟩ }
       else if legal c.word = false then
         { s with faulted := true, ecode := 3#4, rsp := some ⟨3#4, statusWord s.seeded true 3#4⟩ }
       else if countField c.word ≠ 4#3 then
         { s with faulted := true, ecode := 1#4, rsp := some ⟨1#4, statusWord s.seeded true 1#4⟩ }
       else
         { s with
           gen := ⟨⟨dataWord c.data 0, dataWord c.data 1, dataWord c.data 2, dataWord c.data 3⟩, 0#11, 0#64⟩
           seeded := true
           rsp := some ⟨0#4, 0#64⟩ })

/-- R102: nothing of a previous generator survives a SEED: whatever generator there was, or none, the result is the state
that a first SEED gives. -/
def Obligations.SeedReplacesTheWholeGenerator : Prop :=
  ∀ (d0 d1 d2 d3 : Word) (s : State) (g : Generator) (b : Bool), s.faulted = false →
    exec (.seed 4#3 d0 d1 d2 d3) { s with gen := g, seeded := b } = exec (.seed 4#3 d0 d1 d2 d3) s ∧
    exec (.seed 4#3 d0 d1 d2 d3) { s with gen := g, seeded := b } = .next
      { s with gen := ⟨⟨d0, d1, d2, d3⟩, 0#11, 0#64⟩, seeded := true, rsp := some ⟨0#4, 0#64⟩ }

/-- R103: the first internal draw after a SEED reseeds before it computes its result: its result is the scrambler of the
reseeded words, never of the seed words, and it leaves `cnt = 1000` and `ndraw = 1`. It is what NEXT answers right after
SEED (R144), and what NEXTF tests first (R163). That `exec` of NEXTF makes that first test itself is the model's choice (log
entry 11). -/
def Obligations.FirstDrawAfterSeedReadsTheReseededState : Prop :=
  ∀ (d0 d1 d2 d3 : Word) (s : State), s.faulted = false →
    let w := reseed ⟨d0, d1, d2, d3⟩
    let result := rotl64 (w.s0 + w.s3) 23 + w.s0
    ∃ t, exec (.seed 4#3 d0 d1 d2 d3) s = .next t ∧
      t.gen.draw.1 = result ∧ t.gen.draw.2.cnt = 1000#11 ∧ t.gen.draw.2.ndraw = 1#64 ∧
      (∃ u, exec .next t = .next u ∧ u.rsp = some ⟨0#4, result⟩ ∧ u.gen = t.gen.draw.2) ∧
      (∃ u, exec .nextf t = .next u ∧ u.gen = t.gen.draw.2 ∧
        (isFinite64 result = true → u.rsp = some ⟨0#4, result⟩))

/-! ## The reseed (R41, R42, R111–R119) -/

/-- R41, R42: byte `8*i + j` of the hash message is `s_i[63-8j : 56-8j]`, there are 32 of them, and reading the message
back as a digest is read gives the words (R10). -/
def Obligations.HashMessageIsTheWordsBigEndian : Prop :=
  ∀ w : Words,
    w.bytes.length = 32 ∧ Words.ofBytes w.bytes = w ∧
    ∀ j, j < 8 →
      w.bytes[j]? = some (w.s0.extractLsb' (56 - 8 * j) 8) ∧
      w.bytes[8 + j]? = some (w.s1.extractLsb' (56 - 8 * j) 8) ∧
      w.bytes[16 + j]? = some (w.s2.extractLsb' (56 - 8 * j) 8) ∧
      w.bytes[24 + j]? = some (w.s3.extractLsb' (56 - 8 * j) 8)

/-- R113 and R119: the reseed through bytes (R111) is the reseed through 32-bit words: the padded block is the high and
low halves of the state words, 0x80000000, six zeros and 0x100, and each new state word is two words of the hash. -/
def Obligations.ReseedThroughBytesIsReseedThroughWords : Prop :=
  ∀ w : Words,
    let block : List U32 :=
      [w.s0.extractLsb' 32 32, w.s0.extractLsb' 0 32, w.s1.extractLsb' 32 32, w.s1.extractLsb' 0 32,
       w.s2.extractLsb' 32 32, w.s2.extractLsb' 0 32, w.s3.extractLsb' 32 32, w.s3.extractLsb' 0 32,
       0x80000000#32, 0#32, 0#32, 0#32, 0#32, 0#32, 0#32, 0x00000100#32]
    let h := shaCompress block
    u32sBE (shaPad w.bytes) = block ∧
    sha256 w.bytes = be4 h.a ++ be4 h.b ++ be4 h.c ++ be4 h.d ++ be4 h.e ++ be4 h.f ++ be4 h.g ++ be4 h.h ∧
    reseed w =
      ⟨(h.a.setWidth 64 <<< 32) ||| h.b.setWidth 64, (h.c.setWidth 64 <<< 32) ||| h.d.setWidth 64,
       (h.e.setWidth 64 <<< 32) ||| h.f.setWidth 64, (h.g.setWidth 64 <<< 32) ||| h.h.setWidth 64⟩

/-- R114: the message schedule. -/
def Obligations.ScheduleFollowsItsRecurrence : Prop :=
  ∀ block : List U32, block.length = 16 →
    (shaSchedule block).length = 64 ∧
    (∀ t, t < 16 → (shaSchedule block).getD t 0 = block.getD t 0) ∧
    ∀ t, 16 ≤ t → t < 64 →
      (shaSchedule block).getD t 0 =
        shaSmallSigma1 ((shaSchedule block).getD (t - 2) 0) + (shaSchedule block).getD (t - 7) 0
        + shaSmallSigma0 ((shaSchedule block).getD (t - 15) 0) + (shaSchedule block).getD (t - 16) 0

/-- R121: after draw `1 + 1001*m + j` of a fresh generator, for j in 0..1000, `cnt = 1000 - j`; and draw `n + 1` reseeds
exactly when 1001 divides n. -/
def Obligations.ReseedsEvery1001Draws : Prop :=
  ∀ d0 d1 d2 d3 : Word,
    let g : Generator := ⟨⟨d0, d1, d2, d3⟩, 0#11, 0#64⟩
    (∀ m j, j ≤ 1000 → (g.after (1 + 1001 * m + j)).cnt = BitVec.ofNat 11 (1000 - j)) ∧
    (∀ n, n % 1001 = 0 → (g.after n).countdown.words = reseed (g.after n).words) ∧
    (∀ n, n % 1001 ≠ 0 → (g.after n).countdown.words = (g.after n).words)

/-! ## The draw and NEXT (R140–R147) -/

/-- R140, R141, R142, R145: one draw, by the value of `cnt`: its result is the scrambler of the words after the possible
reseed and before the update, its new words are R142's four equations on those words, and `ndraw` counts it. -/
def Obligations.DrawFollowsItsEquations : Prop :=
  ∀ g : Generator,
    let w := if g.cnt = 0#11 then reseed g.words else g.words
    g.draw.1 = rotl64 (w.s0 + w.s3) 23 + w.s0 ∧
    g.draw.2.words.s0 = w.s0 ^^^ w.s3 ^^^ w.s1 ∧
    g.draw.2.words.s1 = w.s1 ^^^ w.s2 ^^^ w.s0 ∧
    g.draw.2.words.s2 = w.s2 ^^^ w.s0 ^^^ (w.s1 <<< 17) ∧
    g.draw.2.words.s3 = rotl64 (w.s3 ^^^ w.s1) 45 ∧
    g.draw.2.cnt = (if g.cnt = 0#11 then 1000#11 else g.cnt - 1#11) ∧
    g.draw.2.ndraw = g.ndraw + 1

/-- R143: every draw adds one to `ndraw`, modulo 2^64, a draw that reseeds too. -/
def Obligations.EveryDrawIsCounted : Prop :=
  ∀ (n : Nat) (g : Generator), (g.after n).ndraw = g.ndraw + BitVec.ofNat 64 n

/-- R146: from the all-zero state every draw that does not reseed leaves it all zero and answers 0, for as long as the
countdown lasts. -/
def Obligations.AllZeroStateStaysUntilAReseed : Prop :=
  ∀ (n : Nat) (g : Generator), g.words = ⟨0, 0, 0, 0⟩ → n < g.cnt.toNat →
    g.word n = 0 ∧ (g.after (n + 1)).words = ⟨0, 0, 0, 0⟩

/-- R142 (derived; C4 rests on it): the update loses nothing of the 256 bits. So a draw without a reseed never leads two
different states to one. -/
def Obligations.UpdateIsInjective : Prop :=
  ∀ v w : Words, v.update = w.update → v = w

/-- R144: NEXT completes in every state with a generator and no fault: it answers the raw result of one draw, the
generator advances by that draw, and nothing else changes. -/
def Obligations.NextAnswersOneRawDraw : Prop :=
  ∀ s : State, s.faulted = false → s.seeded = true →
    exec .next s = .next { s with gen := s.gen.draw.2, rsp := some ⟨0#4, s.gen.draw.1⟩ }

/-- R144: the whole rule of NEXT, for every command with its `OP`, in every state. -/
def Obligations.NextCommandFollowsItsRule : Prop :=
  ∀ (c : Command) (s : State), opField c.word = 0x2#4 →
    perform c s = .next
      (if s.faulted = true then { s with rsp := some ⟨0xF#4, s.status⟩ }
       else if c.word ≠ 0x00000002#32 then
         { s with faulted := true, ecode := 3#4, rsp := some ⟨3#4, statusWord s.seeded true 3#4⟩ }
       else if s.seeded = false then
         { s with faulted := true, ecode := 2#4, rsp := some ⟨2#4, statusWord false true 2#4⟩ }
       else { s with gen := s.gen.draw.2, rsp := some ⟨0#4, s.gen.draw.1⟩ })

/-! ## The finite filter and NEXTF (R160–R168) -/

/-- R161, R162: the finiteness predicate reads the exponent field alone; the classes of a pattern by its exponent and
fraction, and which of them are finite; and the non-finite patterns are 2^53 in number (one for each 53-bit number). -/
def Obligations.FiniteFilterFollowsTheClasses : Prop :=
  (∀ w : Word,
    let e := w.extractLsb' 52 11
    let f := w.extractLsb' 0 52
    (isFinite64 w = true ↔ e ≠ 0x7FF#11) ∧
    (binary64Class w = .zero ↔ e = 0#11 ∧ f = 0#52) ∧
    (binary64Class w = .subnormal ↔ e = 0#11 ∧ f ≠ 0#52) ∧
    (binary64Class w = .normal ↔ 1 ≤ e.toNat ∧ e.toNat ≤ 0x7FE) ∧
    (binary64Class w = .infinity ↔ e = 0x7FF#11 ∧ f = 0#52) ∧
    (binary64Class w = .nan ↔ e = 0x7FF#11 ∧ f ≠ 0#52) ∧
    (isFinite64 w = false ↔ binary64Class w = .infinity ∨ binary64Class w = .nan)) ∧
  ∃ pattern : BitVec 53 → Word,
    (∀ u v, pattern u = pattern v → u = v) ∧ ∀ w, isFinite64 w = false ↔ ∃ v, pattern v = w

/-- R163 to R165, one micro-step: with a generator and no fault, NEXTF draws; a finite word is its answer; a rejected word
ends it with RetryExhausted if the cap is 1; otherwise the draw stands and no answer is given yet. That the first
micro-step happens in `exec`, and so in the step that accepts the command, is the model's choice (log entry 11). -/
def Obligations.NextfMakesItsFirstMicroStep : Prop :=
  ∀ s : State, s.faulted = false → s.seeded = true →
    (isFinite64 s.gen.draw.1 = true →
      exec .nextf s = .next { s with gen := s.gen.draw.2, nfTries := 1, rsp := some ⟨0#4, s.gen.draw.1⟩ }) ∧
    (isFinite64 s.gen.draw.1 = false → s.config.finiteCap = some 1 →
      exec .nextf s = .next
        { s with
          gen := s.gen.draw.2
          nfTries := 1
          faulted := true
          ecode := 4#4
          rsp := some ⟨4#4, statusWord true true 4#4⟩ }) ∧
    (isFinite64 s.gen.draw.1 = false → s.config.finiteCap ≠ some 1 →
      exec .nextf s = .next { s with gen := s.gen.draw.2, nfTries := 1, rsp := none })

/-- R163, R164: with a host that only waits, a NEXTF whose first k draws are rejected and whose next one is finite has
that word as its answer, has made k + 1 draws, and has changed nothing else of the block. That this takes k + 1 steps from
the offer is the model's choice: an idle block accepts at once, with one micro-step an edge (log entry 6), and the first
micro-step happens in the accepting step (log entry 11). -/
def Obligations.NextfAnswersTheFirstFiniteDraw : Prop :=
  ∀ (k : Nat) (s : State) (rest : List PortIn),
    s.busy = false → s.offer = none → s.faulted = false → s.seeded = true →
    s.pins = PortIn.offering ⟨0x00000003#32, 0⟩ :: rest → QuietFor k rest →
    (∀ i, i < k → isFinite64 (s.gen.word i) = false) → isFinite64 (s.gen.word k) = true →
    (∀ c, s.config.finiteCap = some c → k < c) →
    run (k + 1) s = .next
      { s with
         gen := s.gen.after (k + 1)
         busy := true
         nfTries := k + 1
         rsp := some ⟨0#4, s.gen.word k⟩
         pins := rest.drop k }

/-- R165, R204: with a cap c, a NEXTF whose first c draws are all non-finite raises RetryExhausted after the c-th; the
state changes of those draws remain, and the block is FAULTED with code 4. That this takes c steps from the offer is the
model's choice: an idle block accepts at once, with one micro-step an edge (log entry 6), and the first micro-step happens
in the accepting step (log entry 11). -/
def Obligations.NextfExhaustsItsCap : Prop :=
  ∀ (c : Nat) (s : State) (rest : List PortIn),
    1 ≤ c → s.config.finiteCap = some c →
    s.busy = false → s.offer = none → s.faulted = false → s.seeded = true →
    s.pins = PortIn.offering ⟨0x00000003#32, 0⟩ :: rest → QuietFor (c - 1) rest →
    (∀ i, i < c → isFinite64 (s.gen.word i) = false) →
    run c s = .next
      { s with
         gen := s.gen.after c
         busy := true
         nfTries := c
         faulted := true
         ecode := 4#4
         rsp := some ⟨4#4, 0x43#64⟩
         pins := rest.drop (c - 1) }

/-- R164: while its draws are rejected and its cap is not reached, a NEXTF goes on drawing without an answer: a NEXTF that
never finds a finite draw is an infinite run, and no step of it is skipped. That k + 1 steps from the offer make k + 1
draws is the model's choice: an idle block accepts at once, with one micro-step an edge (log entry 6), and the first
micro-step happens in the accepting step (log entry 11). -/
def Obligations.NextfGoesOnWhileDrawsAreRejected : Prop :=
  ∀ (k : Nat) (s : State) (rest : List PortIn),
    s.busy = false → s.offer = none → s.faulted = false → s.seeded = true →
    s.pins = PortIn.offering ⟨0x00000003#32, 0⟩ :: rest → QuietFor k rest →
    (∀ i, i ≤ k → isFinite64 (s.gen.word i) = false) →
    (∀ c, s.config.finiteCap = some c → k + 1 < c) →
    run (k + 1) s = .next
      { s with
         gen := s.gen.after (k + 1)
         busy := true
         nfTries := k + 1
         rsp := none
         pins := rest.drop k }

/-- R168: every status-0 response of a NEXTF is a finite pattern, whether its first draw or a later one was accepted. -/
def Obligations.OkResponsesOfNextfAreFinite : Prop :=
  ∀ (s t : State) (w : Word),
    (exec .nextf s = .next t ∨ (s.computing = true ∧ step s = .next t)) →
    t.rsp = some ⟨0#4, w⟩ → isFinite64 w = true

/-! ## RDREG (R180–R182) -/

/-- R181: RDREG completes for every legal index, with no generator only for STATUS; it answers the register the map names
and changes nothing else. An index of 7 to 63 is IllegalCommand. What index 4 reads is at most 1000, in a state with a
generator that meets the invariant (R23). -/
def Obligations.RdregAnswersTheNamedRegister : Prop :=
  (∀ (r : BitVec 6) (s : State), s.faulted = false → r.toNat ≤ 6 → (r.toNat ≤ 5 → s.seeded = true) →
    exec (.rdreg r) s = .next
      { s with
        rsp := some ⟨0#4,
          [s.gen.words.s0, s.gen.words.s1, s.gen.words.s2, s.gen.words.s3, s.gen.cnt.setWidth 64, s.gen.ndraw,
           s.status].getD r.toNat 0⟩ }) ∧
  (∀ (r : BitVec 6) (s : State), s.faulted = false → 7 ≤ r.toNat →
    exec (.rdreg r) s = .next
      { s with faulted := true, ecode := 3#4, rsp := some ⟨3#4, statusWord s.seeded true 3#4⟩ }) ∧
  (∀ s : State, BlockInv s → s.seeded = true → (s.gen.cnt.setWidth 64).toNat ≤ 1000)

/-- R180: the whole rule of RDREG, for every command with its `OP`, in every state. -/
def Obligations.RdregCommandFollowsItsRule : Prop :=
  ∀ (c : Command) (s : State), opField c.word = 0x5#4 →
    perform c s = .next
      (if s.faulted = true then { s with rsp := some ⟨0xF#4, s.status⟩ }
       else if legal c.word = false then
         { s with faulted := true, ecode := 3#4, rsp := some ⟨3#4, statusWord s.seeded true 3#4⟩ }
       else if (argField c.word).toNat ≤ 5 ∧ s.seeded = false then
         { s with faulted := true, ecode := 2#4, rsp := some ⟨2#4, statusWord false true 2#4⟩ }
       else
         { s with
           rsp := some ⟨0#4,
             [s.gen.words.s0, s.gen.words.s1, s.gen.words.s2, s.gen.words.s3, s.gen.cnt.setWidth 64, s.gen.ndraw,
              s.status].getD (argField c.word).toNat 0⟩ })

/-- R46, R182: ROTL and RDREG have no side effect on the architectural state. Whatever they answer, the generator and
SEEDED are unchanged, and FAULTED and ECODE change only where a fault is raised. -/
def Obligations.RotlAndRdregHaveNoSideEffects : Prop :=
  ∀ (i : Instr) (s t : State), ((∃ k x, i = .rotl k x) ∨ ∃ r, i = .rdreg r) → exec i s = .next t →
    t.gen = s.gen ∧ t.seeded = s.seeded ∧
    ((∀ r, t.rsp = some r → r.status = 0#4 ∨ r.status = 0xF#4) → t.faulted = s.faulted ∧ t.ecode = s.ecode)

/-! ## Faults (R200–R211) -/

/-- R28: STATUS is SEEDED in bit 0, FAULTED in bit 1, ECODE in bits 7:4, and 0 everywhere else. -/
def Obligations.StatusShowsTheFlagsAndZeros : Prop :=
  ∀ s : State,
    s.status.getLsbD 0 = s.seeded ∧ s.status.getLsbD 1 = s.faulted ∧
    s.status.getLsbD 2 = false ∧ s.status.getLsbD 3 = false ∧
    s.status.extractLsb' 4 4 = s.ecode ∧ ∀ i, 8 ≤ i → s.status.getLsbD i = false

/-- R208: the fault entry of each of the four causes: the record, then the answer with the code and the STATUS read after
the record; nothing else changes. -/
def Obligations.FaultEntryRecordsAndAnswers : Prop :=
  ∀ s : State,
    raise .invalidSeed s =
      { s with faulted := true, ecode := 1#4, rsp := some ⟨1#4, statusWord s.seeded true 1#4⟩ } ∧
    raise .notSeeded s =
      { s with faulted := true, ecode := 2#4, rsp := some ⟨2#4, statusWord s.seeded true 2#4⟩ } ∧
    raise .illegalCommand s =
      { s with faulted := true, ecode := 3#4, rsp := some ⟨3#4, statusWord s.seeded true 3#4⟩ } ∧
    raise .retryExhausted s =
      { s with faulted := true, ecode := 4#4, rsp := some ⟨4#4, statusWord s.seeded true 4#4⟩ }

/-- R205: a FAULTED block answers every command, whatever its word and data, with HALTED and STATUS, and changes nothing. -/
def Obligations.FaultedBlockAnswersHalted : Prop :=
  ∀ (c : Command) (s : State), s.faulted = true →
    perform c s = .next { s with rsp := some ⟨0xF#4, s.status⟩ }

/-- R202: NEXT, NEXTF, and RDREG of an index up to 5 raise NotSeeded while there is no generator, and touch none of its
registers. -/
def Obligations.CommandsWithoutAGeneratorRaiseNotSeeded : Prop :=
  ∀ (i : Instr) (s : State), s.faulted = false → s.seeded = false →
    (i = .next ∨ i = .nextf ∨ ∃ r : BitVec 6, r.toNat ≤ 5 ∧ i = .rdreg r) →
    exec i s = .next
      { s with faulted := true, ecode := 2#4, rsp := some ⟨2#4, statusWord false true 2#4⟩ }

/-- R203: every word that is not legal raises IllegalCommand, and no operand is read. -/
def Obligations.IllegalWordsRaiseIllegalCommand : Prop :=
  ∀ (c : Command) (s : State), s.faulted = false → legal c.word = false →
    perform c s = .next
      { s with faulted := true, ecode := 3#4, rsp := some ⟨3#4, statusWord s.seeded true 3#4⟩ }

/-- R209: the checks, in order, decide the status of the response; past them the command's answer is OK, or, for NEXTF
alone, OK or RetryExhausted or not given yet. That `perform` makes NEXTF's first micro-step, and so can reach the cap 1, is
the model's choice (log entry 11). -/
def Obligations.ChecksDecideTheResponseInOrder : Prop :=
  ∀ (c : Command) (s : State),
    ∃ t, perform c s = .next t ∧
      (if s.faulted = true then t.rsp.map Response.status = some 15#4
       else if legal c.word = false then t.rsp.map Response.status = some 3#4
       else if opField c.word = 0x1#4 ∧ countField c.word ≠ 4#3 then t.rsp.map Response.status = some 1#4
       else if s.seeded = false ∧ (opField c.word = 0x2#4 ∨ opField c.word = 0x3#4 ∨
           (opField c.word = 0x5#4 ∧ (argField c.word).toNat ≤ 5)) then t.rsp.map Response.status = some 2#4
       else if opField c.word = 0x3#4 then
         t.rsp = none ∨ t.rsp.map Response.status = some 0#4 ∨
         (t.rsp.map Response.status = some 4#4 ∧ s.config.finiteCap = some 1)
       else t.rsp.map Response.status = some 0#4)

/-- R27, R210: a FAULTED block leaves that state only through reset, and until then keeps the code of its first fault,
its generator and SEEDED. The premise rules out states in which a NEXTF is in progress in a FAULTED block. -/
def Obligations.OnlyResetLeavesTheFaultedState : Prop :=
  ∀ s t : State, BlockInv s → s.faulted = true → s.drive.rst = false → step s = .next t →
    t.faulted = true ∧ t.ecode = s.ecode ∧ t.gen = s.gen ∧ t.seeded = s.seeded

/-- R211: the fault output equals bit 1 of STATUS in every state; it is 0 after a reset edge, 1 from a fault entry on, and
stays 1 until the next reset. -/
def Obligations.FaultOutputIsTheFaultedBit : Prop :=
  (∀ (s : State) (rst : Bool), (s.outputs rst).fault = s.status.getLsbD 1) ∧
  (∀ s : State, s.drive.rst = true → ∃ t, step s = .next t ∧ ∀ rst, (t.outputs rst).fault = false) ∧
  (∀ (f : Cause) (s : State) (rst : Bool), ((raise f s).outputs rst).fault = true) ∧
  (∀ s t : State, BlockInv s → (s.outputs false).fault = true → s.drive.rst = false → step s = .next t →
    ∀ rst, (t.outputs rst).fault = true)

/-! ## The port (R68–R71), reset (R230, R231) and steps -/

/-- R70, R71: when the host presents a command to the idle block, the step accepts it (busy, nothing of an earlier command
left, the host's inputs consumed) and is `exec` of the instruction it decodes to; an illegal word is performed too. That
an idle block accepts at the very edge at which the command is presented is the model's choice (log entry 6): R71 says only
when `cmd_ready` may be 1. -/
def Obligations.StepRunsThePresentedCommand : Prop :=
  ∀ (s : State) (c : Command), Presents s c →
    (∀ i, decode c = .instr i →
      step s = exec i { s with busy := true, nfTries := 0, rsp := none, offer := none, pins := s.pins.tail }) ∧
    step s = perform c { s with busy := true, nfTries := 0, rsp := none, offer := none, pins := s.pins.tail }

/-- The model's own loader (log entry 5): the step after `withFetchWord` accepts exactly the given command, in every state.
That it is accepted at once is the model's choice too (log entry 6). -/
def Obligations.StepRunsTheFetchedWord : Prop :=
  ∀ (s : State) (nbits w : Nat) (i : Instr), decodeTableWord nbits w = some i →
    step (s.withFetchWord nbits w) = exec i { s with busy := true, nfTries := 0, rsp := none, offer := none }

/-- R230, R231: an edge with `rst = 1` clears the flags, the command in progress and the pending response, from every
state, and transfers nothing; meanwhile `cmd_ready` and `rsp_valid` are 0. Nothing of the generator survives it: the state
after is the same whatever the generator was. What its registers then read as is the model's choice (log entry 1) and no
part of this statement. -/
def Obligations.ResetEdgeClearsTheBlock : Prop :=
  ∀ s : State, s.drive.rst = true →
    (s.outputs true).cmdReady = false ∧ (s.outputs true).rspValid = false ∧
    s.accepting = none ∧ s.delivering = none ∧
    ∃ t, step s = .next t ∧ t.seeded = false ∧ t.faulted = false ∧ t.ecode = 0#4 ∧
      t.busy = false ∧ t.nfTries = 0 ∧ t.rsp = none ∧ t.config = s.config ∧ t.pins = s.pins.tail ∧
      ∀ g, step { s with gen := g } = .next t

/-- R32: the flags and the transient state after reset; `State.reset`'s values of the generator's registers are the
model's (log entry 1) and no part of this statement. That an idle block shows `cmd_ready = 1` at once is log entry 6. -/
def Obligations.ResetStateHasTheStatedValues : Prop :=
  State.reset.seeded = false ∧ State.reset.faulted = false ∧ State.reset.ecode = 0#4 ∧
  State.reset.busy = false ∧ State.reset.nfTries = 0 ∧ State.reset.rsp = none ∧ State.reset.status = 0#64 ∧
  (State.reset.outputs false).cmdReady = true ∧ (State.reset.outputs false).fault = false

/-- R70, R71, R235: a response waits, unchanged and offered at every edge, until the host takes it; until then no command
is accepted and no draw is made. -/
def Obligations.WaitingResponseIsHeldUntilTaken : Prop :=
  ∀ (s : State) (r : Response), s.busy = true → s.rsp = some r →
    s.drive.rst = false → s.drive.rspReady = false → s.holdKept s.drive = true →
    s.outputs false = ⟨false, true, some r, s.faulted⟩ ∧
    step s = .next { s with offer := if s.drive.cmdValid then some s.drive.cmd else none, pins := s.pins.tail }

/-- R71: `busy` is cleared at the edge where the response is transferred, and nothing else of the block changes there. -/
def Obligations.TakingTheResponseFreesTheBlock : Prop :=
  ∀ (s : State) (r : Response), s.busy = true → s.rsp = some r →
    s.drive.rst = false → s.drive.rspReady = true → s.holdKept s.drive = true →
    s.delivering = some r ∧
    step s = .next
      { s with
        busy := false
        rsp := none
        offer := if s.drive.cmdValid then some s.drive.cmd else none
        pins := s.pins.tail }

/-- R218: an idle block to which no command is offered holds all its state. -/
def Obligations.IdleBlockHoldsAllState : Prop :=
  ∀ s : State, s.busy = false → s.rsp = none → s.offer = none → s.drive.rst = false → s.drive.cmdValid = false →
    step s = .next { s with pins := s.pins.tail }

/-- R70, U7: the run is refused exactly when, outside reset, the host withdraws or changes a command that it was offering
and that was not transferred. Nothing else is ever refused. That a reset edge ends the host's duty is the model's choice
(log entry 4). -/
def Obligations.OnlyABrokenHandshakeIsRefused : Prop :=
  ∀ (s : State) (r : Refusal),
    step s = .refused r ↔
      r = .hostBrokeHandshake ∧ s.drive.rst = false ∧
      ∃ c, s.offer = some c ∧ (s.drive.cmdValid = false ∨ s.drive.cmd ≠ c)

/-- R26: only a successful SEED sets SEEDED, and only reset clears it. -/
def Obligations.OnlySeedSetsSeeded : Prop :=
  ∀ s t : State, step s = .next t → s.drive.rst = false →
    t.seeded = s.seeded ∨
    (t.seeded = true ∧ s.faulted = false ∧
      ∃ c d0 d1 d2 d3, s.accepting = some c ∧ decode c = .instr (.seed 4#3 d0 d1 d2 d3))

/-- R236: outside reset the generator's registers change only inside an accepted NEXT, NEXTF or SEED, and only as their
rules say: by exactly one draw, or to the fresh generator of the seed words. -/
def Obligations.GeneratorChangesOnlyInItsCommands : Prop :=
  ∀ s t : State, step s = .next t → s.drive.rst = false →
    t.gen = s.gen ∨
    (t.gen = s.gen.draw.2 ∧
      (s.computing = true ∨
        (s.seeded = true ∧ s.faulted = false ∧
          ∃ c, s.accepting = some c ∧ (decode c = .instr .next ∨ decode c = .instr .nextf)))) ∨
    (s.faulted = false ∧
      ∃ c d0 d1 d2 d3, s.accepting = some c ∧ decode c = .instr (.seed 4#3 d0 d1 d2 d3) ∧
        t.gen = ⟨⟨d0, d1, d2, d3⟩, 0#11, 0#64⟩)

/-- A command touches neither the handshake's state nor the build: whatever `exec` answers, `busy`, the host's offer and
inputs, and the build parameters are unchanged (R28, R71). -/
def Obligations.CommandsLeaveTheHandshakeAlone : Prop :=
  ∀ (i : Instr) (s t : State), exec i s = .next t →
    t.busy = s.busy ∧ t.offer = s.offer ∧ t.pins = s.pins ∧ t.config = s.config

/-! ## Whole-machine statements -/

/-- The invariant of Safety.lean holds right after reset. -/
def Obligations.InvariantHoldsAtReset : Prop := BlockInv State.reset

/-- Every step keeps the invariant: R23's range of `cnt`, R28's legal `ECODE`, R31's idle block, R67's legal responses. -/
def Obligations.EveryStepKeepsTheInvariant : Prop :=
  ∀ s t : State, BlockInv s → step s = .next t → BlockInv t

/-- R32, R33: the values that the generator's registers hold before a SEED cannot be observed. Two states that differ only
there have the same outputs, make the same kind of step, and lead to two states that again differ only there. -/
def Obligations.UnwrittenGeneratorCannotBeObserved : Prop :=
  ∀ s t : State, BlockInv s → BlockInv t → SameButUnwritten s t →
    (∀ rst, s.outputs rst = t.outputs rst) ∧ s.delivering = t.delivering ∧
    ((∃ s' t', step s = .next s' ∧ step t = .next t' ∧ SameButUnwritten s' t') ∨
      (∃ r, step s = .refused r ∧ step t = .refused r))

/-- R147: after a SEED with the same words, two blocks of one build that then accept the same commands give the same
responses: while the commands one has accepted are a prefix of the commands of the other, one list of responses is a
prefix of the other. The hosts may offer, wait and take responses at different edges, and the blocks may have held
anything before. (Resets are excluded: they end the generator.) -/
def Obligations.SameSeedGivesTheSameResponses : Prop :=
  ∀ (m n : Nat) (s t : State) (d0 d1 d2 d3 : Word), BlockInv s → BlockInv t →
    s.faulted = false → t.faulted = false → s.config = t.config →
    Presents s (encode (.seed 4#3 d0 d1 d2 d3)) → Presents t (encode (.seed 4#3 d0 d1 d2 d3)) →
    NoReset m s → NoReset n t → accepted m s <+: accepted n t →
    delivered m s <+: delivered n t ∨ delivered n t <+: delivered m s

/-- R67: in every run without a reset, each accepted command has had exactly one response taken, but for the one command
that is still in progress. -/
def Obligations.EachAcceptedCommandGetsOneResponse : Prop :=
  ∀ (n : Nat) (s t : State), BlockInv s → NoReset n s → run n s = .next t →
    (accepted n s).length + inProgress s = (delivered n s).length + inProgress t

/-- R47, R144: served one after the other, n NEXT commands answer the first n words of the draw stream, in order, and leave
the generator n draws on. That a command is accepted at the edge it is offered and its answer taken at the next, so that n
commands take 2n steps, is the model's choice (log entry 6). -/
def Obligations.NextResponsesAreTheDrawStream : Prop :=
  ∀ (n : Nat) (s : State) (rest : List PortIn),
    s.busy = false → s.offer = none → s.faulted = false → s.seeded = true →
    s.pins = serve (List.replicate n ⟨0x00000002#32, 0⟩) ++ rest →
    delivered (2 * n) s = (List.range n).map (fun k => ⟨0#4, s.gen.word k⟩) ∧
    ∃ t, run (2 * n) s = .next t ∧ t.gen = s.gen.after n

/-- R45, R47, R70: the port changes nothing: for a host that offers each command in turn and takes its response, the
responses are those of the commands carried out whole in that order. That a command takes two edges is the model's choice
(log entry 6). (NEXTF, which takes a number of steps that no rule bounds, has its own statements.) -/
def Obligations.ServedCommandsAnswerInOrder : Prop :=
  ∀ (cs : List Command) (s : State) (rest : List PortIn),
    s.busy = false → s.offer = none → s.pins = serve cs ++ rest →
    (∀ c ∈ cs, decode c ≠ .instr .nextf) →
    delivered (2 * cs.length) s = transact cs s
end

