-- ==== Sys2Proof/Laws/Decode.lean ====
section
/-! SUPPORT. The words on the data bus, the fields of the encoder's words, and the decoder by its `OP`. -/

namespace Sys2Proof

/-! ## The data bus -/

/-- The bits of the data bus (R65). -/
theorem getLsbD_dataBus (d0 d1 d2 d3 : Word) (i : Nat) :
    (dataBus d0 d1 d2 d3).getLsbD i =
      if i < 64 then d0.getLsbD i else if i < 128 then d1.getLsbD (i - 64) else if i < 192 then d2.getLsbD (i - 128)
      else d3.getLsbD (i - 192) := by
  show (d3 ++ d2 ++ d1 ++ d0 : BitVec (64+64+64+64)).getLsbD i = _
  simp only [BitVec.getLsbD_append]
  by_cases h1 : i < 64
  · simp only [h1, if_true]
  have e2 : (i - 64 < 64) = (i < 128) := by simp only [eq_iff_iff]; omega
  have e3 : (i - (64 + 64) < 64) = (i < 192) := by simp only [eq_iff_iff]; omega
  simp only [h1, if_false, e2, Nat.sub_sub, e3]

@[simp] theorem dataWord_dataBus_0 (d0 d1 d2 d3 : Word) : dataWord (dataBus d0 d1 d2 d3) 0 = d0 := by
  apply BitVec.eq_of_getLsbD_eq
  intro i hi
  simp [dataWord, getLsbD_dataBus, hi]

@[simp] theorem dataWord_dataBus_1 (d0 d1 d2 d3 : Word) : dataWord (dataBus d0 d1 d2 d3) 1 = d1 := by
  apply BitVec.eq_of_getLsbD_eq
  intro i hi
  have h1 : 64 + i < 128 := by omega
  simp [dataWord, getLsbD_dataBus, hi, h1]

@[simp] theorem dataWord_dataBus_2 (d0 d1 d2 d3 : Word) : dataWord (dataBus d0 d1 d2 d3) 2 = d2 := by
  apply BitVec.eq_of_getLsbD_eq
  intro i hi
  simp [dataWord, getLsbD_dataBus, hi, show ¬ 128 + i < 64 by omega, show ¬ 128 + i < 128 by omega,
    show 128 + i < 192 by omega]

@[simp] theorem dataWord_dataBus_3 (d0 d1 d2 d3 : Word) : dataWord (dataBus d0 d1 d2 d3) 3 = d3 := by
  apply BitVec.eq_of_getLsbD_eq
  intro i hi
  simp [dataWord, getLsbD_dataBus, hi, show ¬ 192 + i < 64 by omega, show ¬ 192 + i < 128 by omega,
    show ¬ 192 + i < 192 by omega]

@[simp] theorem dataBus_dataWord (d : BitVec 256) : dataBus (dataWord d 0) (dataWord d 1) (dataWord d 2) (dataWord d 3) = d := by
  apply BitVec.eq_of_getLsbD_eq
  intro i hi
  have key : ∀ k j, j < 64 → 64 * k + j = i → (dataWord d k).getLsbD j = d.getLsbD i := by
    intro k j hj e
    rw [dataWord, BitVec.getLsbD_extractLsb', e, decide_eq_true hj, Bool.true_and]
  rw [getLsbD_dataBus]
  split
  · exact key 0 i (by omega) (by omega)
  split
  · exact key 1 (i - 64) (by omega) (by omega)
  split
  · exact key 2 (i - 128) (by omega) (by omega)
  · exact key 3 (i - 192) (by omega) (by omega)

/-! ## The encoder's words -/

/-- The fields of a SEED word (R60, R72). -/
theorem seedWord_fields : ∀ n : BitVec 3,
    opField (seedWord n) = 0x1#4 ∧ countField (seedWord n) = n ∧ argField (seedWord n) = 0#6
    ∧ reservedZero (seedWord n) = true := by decide

/-- The fields of a ROTL word (R60, R72). -/
theorem rotlWord_fields : ∀ k : BitVec 6,
    opField (rotlWord k) = 0x4#4 ∧ countField (rotlWord k) = 0#3 ∧ argField (rotlWord k) = k
    ∧ reservedZero (rotlWord k) = true := by decide

/-- The fields of an RDREG word (R60, R72). -/
theorem rdregWord_fields : ∀ r : BitVec 6,
    opField (rdregWord r) = 0x5#4 ∧ countField (rdregWord r) = 0#3 ∧ argField (rdregWord r) = r
    ∧ reservedZero (rdregWord r) = true := by decide

/-- A word whose reserved bits are 0 is its three fields (R60). -/
theorem word_eq_of_fields {a b : BitVec 32} (ho : opField a = opField b) (hn : countField a = countField b)
    (ha : argField a = argField b) (hra : reservedZero a = true) (hrb : reservedZero b = true) : a = b := by
  simp only [reservedZero, Bool.and_eq_true, beq_iff_eq] at hra hrb
  have h14 := hra.1.trans hrb.1.symm
  have h7 := hra.2.trans hrb.2.symm
  apply BitVec.eq_of_getLsbD_eq
  intro i hi
  have key : ∀ lo len, a.extractLsb' lo len = b.extractLsb' lo len → lo ≤ i → i < lo + len →
      a.getLsbD i = b.getLsbD i := by
    intro lo len h h1 h2
    have := congrArg (fun v => v.getLsbD (i - lo)) h
    simpa [BitVec.getLsbD_extractLsb', show i - lo < len by omega, show lo + (i - lo) = i by omega] using this
  rcases Nat.lt_or_ge i 4 with h | h
  · exact key 0 4 ho (by omega) (by omega)
  rcases Nat.lt_or_ge i 7 with h | h
  · exact key 4 3 hn (by omega) (by omega)
  rcases Nat.lt_or_ge i 8 with h | h
  · exact key 7 1 h7 (by omega) (by omega)
  rcases Nat.lt_or_ge i 14 with h | h
  · exact key 8 6 ha (by omega) (by omega)
  · exact key 14 18 h14 (by omega) (by omega)

/-! ## The decoder -/

/-- When the common checks pass (R62–R64). -/
theorem checked_eq_instr {cmd : BitVec 32} {usesN usesA : Bool} {i j : Instr} :
    checked cmd usesN usesA i = .instr j ↔
      reservedZero cmd = true ∧ (usesN = true ∨ countField cmd = 0#3) ∧ (usesA = true ∨ argField cmd = 0#6) ∧ i = j := by
  unfold checked
  cases hr : reservedZero cmd <;> cases usesN <;> cases usesA <;> simp
  · by_cases hn : countField cmd = 0#3 <;> by_cases ha : argField cmd = 0#6 <;> simp [hn, ha]
  · by_cases hn : countField cmd = 0#3 <;> simp [hn]
  · by_cases ha : argField cmd = 0#6 <;> simp [ha]

theorem decode_seed {c : Command} (h : opField c.word = 0x1#4) :
    decode c = checked c.word true false (.seed (countField c.word) (dataWord c.data 0) (dataWord c.data 1)
      (dataWord c.data 2) (dataWord c.data 3)) := by
  simp [decode, h]

theorem decode_next {c : Command} (h : opField c.word = 0x2#4) : decode c = checked c.word false false .next := by
  simp [decode, h]

theorem decode_nextf {c : Command} (h : opField c.word = 0x3#4) : decode c = checked c.word false false .nextf := by
  simp [decode, h]

theorem decode_rotl {c : Command} (h : opField c.word = 0x4#4) :
    decode c = checked c.word false true (.rotl (argField c.word) (dataWord c.data 0)) := by
  simp [decode, h]

theorem decode_rdreg {c : Command} (h : opField c.word = 0x5#4) :
    decode c = if registerIndexLegal (argField c.word) then checked c.word false true (.rdreg (argField c.word))
      else .illegal .noSuchRegister := by
  simp [decode, h]

/-- Every other `OP` is reserved (R61). -/
theorem decode_reserved {c : Command} (h1 : opField c.word ≠ 0x1#4) (h2 : opField c.word ≠ 0x2#4)
    (h3 : opField c.word ≠ 0x3#4) (h4 : opField c.word ≠ 0x4#4) (h5 : opField c.word ≠ 0x5#4) :
    decode c = .illegal .reservedOp := by
  simp [decode, h1, h2, h3, h4, h5]

/-- What a decoded command says of its word: one case per instruction (R61–R64). -/
theorem decode_cases {c : Command} {i : Instr} (h : decode c = .instr i) :
    reservedZero c.word = true ∧
    ((opField c.word = 0x1#4 ∧ argField c.word = 0#6 ∧
        i = .seed (countField c.word) (dataWord c.data 0) (dataWord c.data 1) (dataWord c.data 2) (dataWord c.data 3)) ∨
     (opField c.word = 0x2#4 ∧ countField c.word = 0#3 ∧ argField c.word = 0#6 ∧ i = .next) ∨
     (opField c.word = 0x3#4 ∧ countField c.word = 0#3 ∧ argField c.word = 0#6 ∧ i = .nextf) ∨
     (opField c.word = 0x4#4 ∧ countField c.word = 0#3 ∧ i = .rotl (argField c.word) (dataWord c.data 0)) ∨
     (opField c.word = 0x5#4 ∧ countField c.word = 0#3 ∧ registerIndexLegal (argField c.word) = true ∧
        i = .rdreg (argField c.word))) := by
  by_cases h1 : opField c.word = 0x1#4
  · obtain ⟨hr, -, ha, rfl⟩ := checked_eq_instr.1 (decode_seed h1 ▸ h)
    exact ⟨hr, .inl ⟨h1, by simpa using ha, rfl⟩⟩
  by_cases h2 : opField c.word = 0x2#4
  · obtain ⟨hr, hn, ha, rfl⟩ := checked_eq_instr.1 (decode_next h2 ▸ h)
    exact ⟨hr, .inr (.inl ⟨h2, by simpa using hn, by simpa using ha, rfl⟩)⟩
  by_cases h3 : opField c.word = 0x3#4
  · obtain ⟨hr, hn, ha, rfl⟩ := checked_eq_instr.1 (decode_nextf h3 ▸ h)
    exact ⟨hr, .inr (.inr (.inl ⟨h3, by simpa using hn, by simpa using ha, rfl⟩))⟩
  by_cases h4 : opField c.word = 0x4#4
  · obtain ⟨hr, hn, -, rfl⟩ := checked_eq_instr.1 (decode_rotl h4 ▸ h)
    exact ⟨hr, .inr (.inr (.inr (.inl ⟨h4, by simpa using hn, rfl⟩)))⟩
  by_cases h5 : opField c.word = 0x5#4
  · rw [decode_rdreg h5] at h
    split at h
    · obtain ⟨hr, hn, -, rfl⟩ := checked_eq_instr.1 h
      exact ⟨hr, .inr (.inr (.inr (.inr ⟨h5, by simpa using hn, ‹_›, rfl⟩)))⟩
    · cases h
  · rw [decode_reserved h1 h2 h3 h4 h5] at h
    cases h

end Sys2Proof
end

