-- ==== Sys2Proof/Laws/Draw.lean ====
section
/-! SUPPORT. The rotator by its bits, the countdown by its two cases, and the generator after several draws. -/

namespace Sys2Proof.Machine

/-! ## The rotator -/

/-- R91: rotating by no places. -/
@[simp] theorem rotl64_zero (x : Word) : rotl64 x 0 = x := by
  have h : x >>> 64 = 0#64 := BitVec.ushiftRight_eq_zero (Nat.le_refl 64)
  simp [rotl64, h]

/-- For the amounts of R90 and R91 the rotator is the core library's rotation. -/
theorem rotl64_eq_rotateLeft (x : Word) (k : Nat) (h : k < 64) : rotl64 x k = x.rotateLeft k := by
  rw [BitVec.rotateLeft_def, Nat.mod_eq_of_lt h, rotl64]

/-! ## The countdown (R110, R145) -/

theorem countdown_of_zero {g : Generator} (h : g.cnt = 0#11) :
    g.countdown = { g with words := reseed g.words, cnt := reseedReload } := by
  simp [Generator.countdown, h]

theorem countdown_of_ne_zero {g : Generator} (h : g.cnt ≠ 0#11) :
    g.countdown = { g with cnt := g.cnt - 1#11 } := by
  have hpos : 0 < g.cnt.toNat := by
    rcases Nat.eq_zero_or_pos g.cnt.toNat with h0 | h0
    · exact absurd (BitVec.eq_of_toNat_eq (by simpa using h0)) h
    · exact h0
  have hc : ¬ ((g.cnt.toNat : Int) - 1 < 0) := by omega
  have he : BitVec.ofInt 11 ((g.cnt.toNat : Int) - 1) = g.cnt - 1#11 := by
    apply BitVec.eq_of_toNat_eq
    have := g.cnt.isLt
    rw [BitVec.toNat_ofInt, BitVec.toNat_sub]
    simp
    omega
  simp [Generator.countdown, hc, he]

@[simp] theorem countdown_ndraw (g : Generator) : g.countdown.ndraw = g.ndraw := by
  by_cases h : g.cnt = 0#11
  · rw [countdown_of_zero h]
  · rw [countdown_of_ne_zero h]

/-- Every draw is counted, one that reseeds too (R143). -/
@[simp] theorem draw_ndraw (g : Generator) : g.draw.2.ndraw = g.ndraw + 1 := by
  simp [Generator.draw]

@[simp] theorem draw_cnt (g : Generator) : g.draw.2.cnt = g.countdown.cnt := rfl

/-- The countdown stays in 0..1000 (R23). -/
theorem draw_cnt_le (g : Generator) (h : g.cnt.toNat ≤ 1000) : g.draw.2.cnt.toNat ≤ 1000 := by
  rw [draw_cnt]
  by_cases h0 : g.cnt = 0#11
  · rw [countdown_of_zero h0]; exact (by decide : reseedReload.toNat ≤ 1000)
  · rw [countdown_of_ne_zero h0]
    have hne : g.cnt.toNat ≠ 0 := fun hz => h0 (BitVec.eq_of_toNat_eq (by simpa using hz))
    have := g.cnt.isLt
    simp [BitVec.toNat_sub]
    omega

/-! ## Several draws -/

@[simp] theorem after_zero (g : Generator) : g.after 0 = g := rfl

theorem after_succ (n : Nat) (g : Generator) : g.after (n + 1) = g.draw.2.after n := rfl

theorem after_add (m n : Nat) (g : Generator) : g.after (m + n) = (g.after m).after n := by
  induction m generalizing g with
  | zero => simp
  | succ m ih => rw [Nat.succ_add, after_succ, ih, after_succ]

theorem after_succ_last (n : Nat) (g : Generator) : g.after (n + 1) = (g.after n).draw.2 := by
  rw [after_add]; rfl

theorem word_zero (g : Generator) : g.word 0 = g.draw.1 := rfl

theorem word_succ (n : Nat) (g : Generator) : g.word (n + 1) = g.draw.2.word n := rfl

end Sys2Proof.Machine
end

