-- ==== Sys2Proof/Laws/State.lean ====
section
/-! SUPPORT. What each update of the state does to each field: one lemma per field per update. -/

namespace Sys2Proof.Machine

/-! The response of a command (R67). -/

@[simp] theorem respond_gen (status : BitVec 4) (data : Word) (s : State) : (respond status data s).gen = s.gen := rfl
@[simp] theorem respond_seeded (status : BitVec 4) (data : Word) (s : State) : (respond status data s).seeded = s.seeded := rfl
@[simp] theorem respond_faulted (status : BitVec 4) (data : Word) (s : State) : (respond status data s).faulted = s.faulted := rfl
@[simp] theorem respond_ecode (status : BitVec 4) (data : Word) (s : State) : (respond status data s).ecode = s.ecode := rfl
@[simp] theorem respond_busy (status : BitVec 4) (data : Word) (s : State) : (respond status data s).busy = s.busy := rfl
@[simp] theorem respond_nfTries (status : BitVec 4) (data : Word) (s : State) : (respond status data s).nfTries = s.nfTries := rfl
@[simp] theorem respond_rsp (status : BitVec 4) (data : Word) (s : State) : (respond status data s).rsp = some ⟨status, data⟩ := rfl
@[simp] theorem respond_config (status : BitVec 4) (data : Word) (s : State) : (respond status data s).config = s.config := rfl
@[simp] theorem respond_offer (status : BitVec 4) (data : Word) (s : State) : (respond status data s).offer = s.offer := rfl
@[simp] theorem respond_pins (status : BitVec 4) (data : Word) (s : State) : (respond status data s).pins = s.pins := rfl

/-! The fault record (R208). -/

@[simp] theorem recordFault_gen (f : Cause) (s : State) : (recordFault f s).gen = s.gen := rfl
@[simp] theorem recordFault_seeded (f : Cause) (s : State) : (recordFault f s).seeded = s.seeded := rfl
@[simp] theorem recordFault_faulted (f : Cause) (s : State) : (recordFault f s).faulted = true := rfl
@[simp] theorem recordFault_ecode (f : Cause) (s : State) : (recordFault f s).ecode = f.code := rfl
@[simp] theorem recordFault_busy (f : Cause) (s : State) : (recordFault f s).busy = s.busy := rfl
@[simp] theorem recordFault_nfTries (f : Cause) (s : State) : (recordFault f s).nfTries = s.nfTries := rfl
@[simp] theorem recordFault_rsp (f : Cause) (s : State) : (recordFault f s).rsp = s.rsp := rfl
@[simp] theorem recordFault_config (f : Cause) (s : State) : (recordFault f s).config = s.config := rfl
@[simp] theorem recordFault_offer (f : Cause) (s : State) : (recordFault f s).offer = s.offer := rfl
@[simp] theorem recordFault_pins (f : Cause) (s : State) : (recordFault f s).pins = s.pins := rfl

/-! Fault entry (R208). -/

@[simp] theorem raise_gen (f : Cause) (s : State) : (raise f s).gen = s.gen := rfl
@[simp] theorem raise_seeded (f : Cause) (s : State) : (raise f s).seeded = s.seeded := rfl
@[simp] theorem raise_faulted (f : Cause) (s : State) : (raise f s).faulted = true := rfl
@[simp] theorem raise_ecode (f : Cause) (s : State) : (raise f s).ecode = f.code := rfl
@[simp] theorem raise_busy (f : Cause) (s : State) : (raise f s).busy = s.busy := rfl
@[simp] theorem raise_nfTries (f : Cause) (s : State) : (raise f s).nfTries = s.nfTries := rfl
@[simp] theorem raise_rsp (f : Cause) (s : State) : (raise f s).rsp = some ⟨f.code, statusWord s.seeded true f.code⟩ := rfl
@[simp] theorem raise_config (f : Cause) (s : State) : (raise f s).config = s.config := rfl
@[simp] theorem raise_offer (f : Cause) (s : State) : (raise f s).offer = s.offer := rfl
@[simp] theorem raise_pins (f : Cause) (s : State) : (raise f s).pins = s.pins := rfl

/-! The answer of a FAULTED block (R205). -/

@[simp] theorem halted_gen (s : State) : (halted s).gen = s.gen := rfl
@[simp] theorem halted_seeded (s : State) : (halted s).seeded = s.seeded := rfl
@[simp] theorem halted_faulted (s : State) : (halted s).faulted = s.faulted := rfl
@[simp] theorem halted_ecode (s : State) : (halted s).ecode = s.ecode := rfl
@[simp] theorem halted_busy (s : State) : (halted s).busy = s.busy := rfl
@[simp] theorem halted_nfTries (s : State) : (halted s).nfTries = s.nfTries := rfl
@[simp] theorem halted_rsp (s : State) : (halted s).rsp = some ⟨statusHalted, s.status⟩ := rfl
@[simp] theorem halted_config (s : State) : (halted s).config = s.config := rfl
@[simp] theorem halted_offer (s : State) : (halted s).offer = s.offer := rfl
@[simp] theorem halted_pins (s : State) : (halted s).pins = s.pins := rfl

/-! A successful SEED (R100). -/

@[simp] theorem construct_gen (g : Generator) (s : State) : (construct g s).gen = g := rfl
@[simp] theorem construct_seeded (g : Generator) (s : State) : (construct g s).seeded = true := rfl
@[simp] theorem construct_faulted (g : Generator) (s : State) : (construct g s).faulted = s.faulted := rfl
@[simp] theorem construct_ecode (g : Generator) (s : State) : (construct g s).ecode = s.ecode := rfl
@[simp] theorem construct_busy (g : Generator) (s : State) : (construct g s).busy = s.busy := rfl
@[simp] theorem construct_nfTries (g : Generator) (s : State) : (construct g s).nfTries = s.nfTries := rfl
@[simp] theorem construct_rsp (g : Generator) (s : State) : (construct g s).rsp = s.rsp := rfl
@[simp] theorem construct_config (g : Generator) (s : State) : (construct g s).config = s.config := rfl
@[simp] theorem construct_offer (g : Generator) (s : State) : (construct g s).offer = s.offer := rfl
@[simp] theorem construct_pins (g : Generator) (s : State) : (construct g s).pins = s.pins := rfl

/-! One draw of a NEXTF (R163). -/

@[simp] theorem drawAndCount_gen (s : State) : (drawAndCount s).gen = s.gen.draw.2 := rfl
@[simp] theorem drawAndCount_seeded (s : State) : (drawAndCount s).seeded = s.seeded := rfl
@[simp] theorem drawAndCount_faulted (s : State) : (drawAndCount s).faulted = s.faulted := rfl
@[simp] theorem drawAndCount_ecode (s : State) : (drawAndCount s).ecode = s.ecode := rfl
@[simp] theorem drawAndCount_busy (s : State) : (drawAndCount s).busy = s.busy := rfl
@[simp] theorem drawAndCount_nfTries (s : State) : (drawAndCount s).nfTries = s.nfTries + 1 := rfl
@[simp] theorem drawAndCount_rsp (s : State) : (drawAndCount s).rsp = s.rsp := rfl
@[simp] theorem drawAndCount_config (s : State) : (drawAndCount s).config = s.config := rfl
@[simp] theorem drawAndCount_offer (s : State) : (drawAndCount s).offer = s.offer := rfl
@[simp] theorem drawAndCount_pins (s : State) : (drawAndCount s).pins = s.pins := rfl

/-! What the host owes after an edge without a transfer (R70). -/

@[simp] theorem noteOffer_gen (p : PortIn) (s : State) : (noteOffer p s).gen = s.gen := rfl
@[simp] theorem noteOffer_seeded (p : PortIn) (s : State) : (noteOffer p s).seeded = s.seeded := rfl
@[simp] theorem noteOffer_faulted (p : PortIn) (s : State) : (noteOffer p s).faulted = s.faulted := rfl
@[simp] theorem noteOffer_ecode (p : PortIn) (s : State) : (noteOffer p s).ecode = s.ecode := rfl
@[simp] theorem noteOffer_busy (p : PortIn) (s : State) : (noteOffer p s).busy = s.busy := rfl
@[simp] theorem noteOffer_nfTries (p : PortIn) (s : State) : (noteOffer p s).nfTries = s.nfTries := rfl
@[simp] theorem noteOffer_rsp (p : PortIn) (s : State) : (noteOffer p s).rsp = s.rsp := rfl
@[simp] theorem noteOffer_config (p : PortIn) (s : State) : (noteOffer p s).config = s.config := rfl
@[simp] theorem noteOffer_offer (p : PortIn) (s : State) : (noteOffer p s).offer = if p.cmdValid then some p.cmd else none := rfl
@[simp] theorem noteOffer_pins (p : PortIn) (s : State) : (noteOffer p s).pins = s.pins := rfl

/-! The start of a command (R71). -/

@[simp] theorem beginCommand_gen (s : State) : (beginCommand s).gen = s.gen := rfl
@[simp] theorem beginCommand_seeded (s : State) : (beginCommand s).seeded = s.seeded := rfl
@[simp] theorem beginCommand_faulted (s : State) : (beginCommand s).faulted = s.faulted := rfl
@[simp] theorem beginCommand_ecode (s : State) : (beginCommand s).ecode = s.ecode := rfl
@[simp] theorem beginCommand_busy (s : State) : (beginCommand s).busy = true := rfl
@[simp] theorem beginCommand_nfTries (s : State) : (beginCommand s).nfTries = 0 := rfl
@[simp] theorem beginCommand_rsp (s : State) : (beginCommand s).rsp = none := rfl
@[simp] theorem beginCommand_config (s : State) : (beginCommand s).config = s.config := rfl
@[simp] theorem beginCommand_offer (s : State) : (beginCommand s).offer = none := rfl
@[simp] theorem beginCommand_pins (s : State) : (beginCommand s).pins = s.pins := rfl

/-! The transfer of a response (R71). -/

@[simp] theorem release_gen (s : State) : (release s).gen = s.gen := rfl
@[simp] theorem release_seeded (s : State) : (release s).seeded = s.seeded := rfl
@[simp] theorem release_faulted (s : State) : (release s).faulted = s.faulted := rfl
@[simp] theorem release_ecode (s : State) : (release s).ecode = s.ecode := rfl
@[simp] theorem release_busy (s : State) : (release s).busy = false := rfl
@[simp] theorem release_nfTries (s : State) : (release s).nfTries = s.nfTries := rfl
@[simp] theorem release_rsp (s : State) : (release s).rsp = none := rfl
@[simp] theorem release_config (s : State) : (release s).config = s.config := rfl
@[simp] theorem release_offer (s : State) : (release s).offer = s.offer := rfl
@[simp] theorem release_pins (s : State) : (release s).pins = s.pins := rfl

/-! Reset (R230). -/

@[simp] theorem resetBlock_gen (s : State) : (resetBlock s).gen = Generator.unwritten := rfl
@[simp] theorem resetBlock_seeded (s : State) : (resetBlock s).seeded = false := rfl
@[simp] theorem resetBlock_faulted (s : State) : (resetBlock s).faulted = false := rfl
@[simp] theorem resetBlock_ecode (s : State) : (resetBlock s).ecode = 0#4 := rfl
@[simp] theorem resetBlock_busy (s : State) : (resetBlock s).busy = false := rfl
@[simp] theorem resetBlock_nfTries (s : State) : (resetBlock s).nfTries = 0 := rfl
@[simp] theorem resetBlock_rsp (s : State) : (resetBlock s).rsp = none := rfl
@[simp] theorem resetBlock_config (s : State) : (resetBlock s).config = s.config := rfl
@[simp] theorem resetBlock_offer (s : State) : (resetBlock s).offer = none := rfl
@[simp] theorem resetBlock_pins (s : State) : (resetBlock s).pins = s.pins := rfl

/-! The host's next inputs consumed. -/

@[simp] theorem advance_gen (s : State) : (s.advance).gen = s.gen := rfl
@[simp] theorem advance_seeded (s : State) : (s.advance).seeded = s.seeded := rfl
@[simp] theorem advance_faulted (s : State) : (s.advance).faulted = s.faulted := rfl
@[simp] theorem advance_ecode (s : State) : (s.advance).ecode = s.ecode := rfl
@[simp] theorem advance_busy (s : State) : (s.advance).busy = s.busy := rfl
@[simp] theorem advance_nfTries (s : State) : (s.advance).nfTries = s.nfTries := rfl
@[simp] theorem advance_rsp (s : State) : (s.advance).rsp = s.rsp := rfl
@[simp] theorem advance_config (s : State) : (s.advance).config = s.config := rfl
@[simp] theorem advance_offer (s : State) : (s.advance).offer = s.offer := rfl
@[simp] theorem advance_pins (s : State) : (s.advance).pins = s.pins.tail := rfl

/-! A command on the port of an idle block. -/

@[simp] theorem presented_gen (c : Command) (s : State) : (s.presented c).gen = s.gen := rfl
@[simp] theorem presented_seeded (c : Command) (s : State) : (s.presented c).seeded = s.seeded := rfl
@[simp] theorem presented_faulted (c : Command) (s : State) : (s.presented c).faulted = s.faulted := rfl
@[simp] theorem presented_ecode (c : Command) (s : State) : (s.presented c).ecode = s.ecode := rfl
@[simp] theorem presented_busy (c : Command) (s : State) : (s.presented c).busy = false := rfl
@[simp] theorem presented_nfTries (c : Command) (s : State) : (s.presented c).nfTries = s.nfTries := rfl
@[simp] theorem presented_rsp (c : Command) (s : State) : (s.presented c).rsp = none := rfl
@[simp] theorem presented_config (c : Command) (s : State) : (s.presented c).config = s.config := rfl
@[simp] theorem presented_offer (c : Command) (s : State) : (s.presented c).offer = none := rfl
@[simp] theorem presented_pins (c : Command) (s : State) : (s.presented c).pins = PortIn.offering c :: s.pins := rfl

end Sys2Proof.Machine
end

