-- ==== Sys2Proof/Laws/Invariant.lean ====
section
/-! SUPPORT. When a state meets the invariant of Safety.lean: an idle block without a fault, and an idle FAULTED block. -/

namespace Sys2Proof.Machine

theorem computing_of_idle {s : State} (hb : s.busy = false) : s.computing = false := by
  simp [State.computing, hb]

/-- An idle block without a fault meets the invariant if its cap is legal and its countdown is in range. -/
theorem blockInv_of_idle {s : State} (hcap : s.config.legal = true) (hcnt : s.gen.cnt.toNat ≤ 1000)
    (hf : s.faulted = false) (he : s.ecode = 0#4) (hb : s.busy = false) (hr : s.rsp = none) : BlockInv s where
  capLegal := hcap
  cntRange _ := hcnt
  ecodeLegal := by rw [he]; decide
  faultRecorded := by simp [hf, he]
  notSeededRecorded h := by rw [he] at h; exact absurd h (by decide)
  retryRecorded h := by rw [he] at h; exact absurd h (by decide)
  idleEmpty _ := hr
  computingReady h := by rw [computing_of_idle hb] at h; cases h
  pendingLegal r h := by rw [hr] at h; cases h

/-- An idle block without a generator, FAULTED by NotSeeded, meets the invariant. -/
theorem blockInv_of_notSeeded {s : State} (hcap : s.config.legal = true) (hs : s.seeded = false)
    (hf : s.faulted = true) (he : s.ecode = 2#4) (hb : s.busy = false) (hr : s.rsp = none) : BlockInv s where
  capLegal := hcap
  cntRange h := by rw [hs] at h; cases h
  ecodeLegal := by rw [he]; decide
  faultRecorded := by simp [hf, he]
  notSeededRecorded _ := hs
  retryRecorded h := by rw [he] at h; exact absurd h (by decide)
  idleEmpty _ := hr
  computingReady h := by rw [computing_of_idle hb] at h; cases h
  pendingLegal r h := by rw [hr] at h; cases h

end Sys2Proof.Machine
end

