-- ==== Sys2Proof/Laws/PerInstr.lean ====
section
/-! SUPPORT. Laws of every instruction as syntax, one lemma per constructor of `Instr`. -/

namespace Sys2Proof.Laws

/-- The encoder of a well-formed instruction gives a word with R66's `legal(cmd)`. -/
def EncodesLegal.Statement (i : Instr) : Prop := i.wellFormed = true → legal (encode i).word = true

theorem EncodesLegal.seed (n : BitVec 3) (d0 d1 d2 d3 : Word) :
    EncodesLegal.Statement (.seed n d0 d1 d2 d3) := fun _ =>
  (by decide : ∀ n : BitVec 3, legal (seedWord n) = true) n

theorem EncodesLegal.next : EncodesLegal.Statement .next := fun _ => by decide

theorem EncodesLegal.nextf : EncodesLegal.Statement .nextf := fun _ => by decide

theorem EncodesLegal.rotl (k : BitVec 6) (x : Word) : EncodesLegal.Statement (.rotl k x) := fun _ =>
  (by decide : ∀ k : BitVec 6, legal (rotlWord k) = true) k

theorem EncodesLegal.rdreg (r : BitVec 6) : EncodesLegal.Statement (.rdreg r) :=
  (by decide : ∀ r : BitVec 6, registerIndexLegal r = true → legal (rdregWord r) = true) r

end Sys2Proof.Laws
end

