-- ==== Sys2Proof/Laws/Step.lean ====
section
/-! SUPPORT. What the shared operations, a command, and a step can do, said once each. -/

namespace Sys2Proof.Machine

/-! ## The checks of R209 -/

theorem unlessFaulted_of_faulted {k : State → State} {s : State} (h : s.faulted = true) :
    unlessFaulted k s = halted s := by simp [unlessFaulted, h]

theorem unlessFaulted_of_not {k : State → State} {s : State} (h : s.faulted = false) :
    unlessFaulted k s = k s := by simp [unlessFaulted, h]

theorem requireSeeded_of_seeded {k : State → State} {s : State} (h : s.seeded = true) :
    requireSeeded k s = k s := by simp [requireSeeded, h]

theorem requireSeeded_of_not {k : State → State} {s : State} (h : s.seeded = false) :
    requireSeeded k s = raise .notSeeded s := by simp [requireSeeded, h]

/-! ## Micro-steps -/

/-- A micro-step answers, exhausts the cap, or goes on; in each case it has made one draw (R163, R165). -/
theorem nextfMicroStep_cases (s : State) :
    (isFinite64 s.gen.draw.1 = true ∧ nextfMicroStep s = respond statusOk s.gen.draw.1 (drawAndCount s)) ∨
    (isFinite64 s.gen.draw.1 = false ∧ s.config.finiteCap = some (s.nfTries + 1) ∧
      nextfMicroStep s = raise .retryExhausted (drawAndCount s)) ∨
    (isFinite64 s.gen.draw.1 = false ∧ s.config.finiteCap ≠ some (s.nfTries + 1) ∧
      nextfMicroStep s = drawAndCount s) := by
  cases hw : isFinite64 s.gen.draw.1
  · by_cases hc : s.config.finiteCap = some (s.nfTries + 1)
    · exact .inr (.inl ⟨rfl, hc, by simp [nextfMicroStep, hw, hc]⟩)
    · exact .inr (.inr ⟨rfl, hc, by simp [nextfMicroStep, hw, hc]⟩)
  · exact .inl ⟨rfl, by simp [nextfMicroStep, hw]⟩

@[simp] theorem nextfMicroStep_gen (s : State) : (nextfMicroStep s).gen = s.gen.draw.2 := by
  rcases nextfMicroStep_cases s with ⟨-, h⟩ | ⟨-, -, h⟩ | ⟨-, -, h⟩ <;> simp [h]

@[simp] theorem nextfMicroStep_seeded (s : State) : (nextfMicroStep s).seeded = s.seeded := by
  rcases nextfMicroStep_cases s with ⟨-, h⟩ | ⟨-, -, h⟩ | ⟨-, -, h⟩ <;> simp [h]

@[simp] theorem nextfMicroStep_busy (s : State) : (nextfMicroStep s).busy = s.busy := by
  rcases nextfMicroStep_cases s with ⟨-, h⟩ | ⟨-, -, h⟩ | ⟨-, -, h⟩ <;> simp [h]

@[simp] theorem nextfMicroStep_config (s : State) : (nextfMicroStep s).config = s.config := by
  rcases nextfMicroStep_cases s with ⟨-, h⟩ | ⟨-, -, h⟩ | ⟨-, -, h⟩ <;> simp [h]

@[simp] theorem nextfMicroStep_offer (s : State) : (nextfMicroStep s).offer = s.offer := by
  rcases nextfMicroStep_cases s with ⟨-, h⟩ | ⟨-, -, h⟩ | ⟨-, -, h⟩ <;> simp [h]

@[simp] theorem nextfMicroStep_pins (s : State) : (nextfMicroStep s).pins = s.pins := by
  rcases nextfMicroStep_cases s with ⟨-, h⟩ | ⟨-, -, h⟩ | ⟨-, -, h⟩ <;> simp [h]

/-! ## Register reads -/

/-- The legal indices are the ones that name a register (R181). -/
theorem readReg_eq_none_iff (r : BitVec 6) (s : State) : readReg r s = none ↔ registerIndexLegal r = false := by
  unfold readReg registerIndexLegal
  split <;> simp_all
  omega

/-! ## Commands -/

/-- Everything a command can do to a state (R209 and the rules of the five commands). -/
inductive Effect (i : Instr) (s : State) : State → Prop
  /-- A FAULTED block answers HALTED (R205). -/
  | halted (hf : s.faulted = true) : Effect i s (halted s)
  /-- A fault before any draw (R201–R203). -/
  | raised (f : Cause) (hf : s.faulted = false) (hs : f = .notSeeded → s.seeded = false) (hr : f ≠ .retryExhausted) :
      Effect i s (raise f s)
  /-- ROTL and RDREG answer (R92, R180). -/
  | answered (v : Word) (hf : s.faulted = false) (hi : (∃ k x, i = .rotl k x) ∨ ∃ r, i = .rdreg r) :
      Effect i s (respond statusOk v s)
  /-- SEED with four words (R100). -/
  | constructed (d0 d1 d2 d3 : Word) (hf : s.faulted = false) (hi : i = .seed 4#3 d0 d1 d2 d3) :
      Effect i s (respond statusOk 0 (construct (Generator.ofSeed d0 d1 d2 d3) s))
  /-- NEXT (R144). -/
  | drew (hf : s.faulted = false) (hs : s.seeded = true) (hi : i = .next) :
      Effect i s (respond statusOk s.gen.draw.1 { s with gen := s.gen.draw.2 })
  /-- NEXTF's first micro-step (R163). -/
  | microStep (hf : s.faulted = false) (hs : s.seeded = true) (hi : i = .nextf) :
      Effect i s (nextfMicroStep { s with nfTries := 0, rsp := none })

/-- A command always has a next state, and its effect is one of those. -/
theorem exec_effect (i : Instr) (s : State) : ∃ t, exec i s = .next t ∧ Effect i s t := by
  cases hf : s.faulted
  · cases i with
    | seed n d0 d1 d2 d3 =>
      refine ⟨_, rfl, ?_⟩
      rw [unlessFaulted_of_not hf]
      split
      · next hn => exact .constructed d0 d1 d2 d3 hf (by rw [hn])
      · exact .raised _ hf (by simp) (by simp)
    | next =>
      refine ⟨_, rfl, ?_⟩
      rw [unlessFaulted_of_not hf]
      cases hs : s.seeded
      · rw [requireSeeded_of_not hs]; exact .raised _ hf (fun _ => hs) (by simp)
      · rw [requireSeeded_of_seeded hs]; exact .drew hf hs rfl
    | nextf =>
      refine ⟨_, rfl, ?_⟩
      rw [unlessFaulted_of_not hf]
      cases hs : s.seeded
      · rw [requireSeeded_of_not hs]; exact .raised _ hf (fun _ => hs) (by simp)
      · rw [requireSeeded_of_seeded hs]; exact .microStep hf hs rfl
    | rotl k x =>
      refine ⟨_, rfl, ?_⟩
      rw [unlessFaulted_of_not hf]
      exact .answered _ hf (.inl ⟨k, x, rfl⟩)
    | rdreg r =>
      refine ⟨_, rfl, ?_⟩
      rw [unlessFaulted_of_not hf]
      split
      · exact .raised _ hf (by simp) (by simp)
      · split
        · cases hs : s.seeded
          · rw [requireSeeded_of_not hs]; exact .raised _ hf (fun _ => hs) (by simp)
          · rw [requireSeeded_of_seeded hs]; exact .answered _ hf (.inr ⟨r, rfl⟩)
        · exact .answered _ hf (.inr ⟨r, rfl⟩)
  · cases i <;> refine ⟨_, rfl, ?_⟩ <;> rw [unlessFaulted_of_faulted hf] <;> exact .halted hf

/-- An accepted command always has a next state: the effect of its instruction, or, for an illegal word, HALTED or
IllegalCommand (R203, R205). -/
theorem perform_effect (c : Command) (s : State) :
    ∃ t, perform c s = .next t ∧
      ((∃ i, decode c = .instr i ∧ Effect i s t) ∨
       ((∃ why, decode c = .illegal why) ∧
        ((s.faulted = true ∧ t = halted s) ∨ (s.faulted = false ∧ t = raise .illegalCommand s)))) := by
  unfold perform
  cases hd : decode c with
  | instr i =>
    obtain ⟨t, ht, he⟩ := exec_effect i s
    exact ⟨t, ht, .inl ⟨i, rfl, he⟩⟩
  | illegal why =>
    refine ⟨_, rfl, .inr ⟨⟨why, rfl⟩, ?_⟩⟩
    cases hf : s.faulted
    · exact .inr ⟨rfl, unlessFaulted_of_not hf⟩
    · exact .inl ⟨rfl, unlessFaulted_of_faulted hf⟩

/-! ## Steps -/

@[simp] theorem advance_holdKept (s : State) (p : PortIn) : s.advance.holdKept p = s.holdKept p := rfl

/-- What the block does at an edge without a transfer of a command. -/
theorem settle_cases (p : PortIn) (s : State) :
    (s.rspValid p.rst = true ∧ p.rspReady = true ∧ settle p s = release s) ∨
    ((s.rspValid p.rst && p.rspReady) = false ∧ s.computing = true ∧ settle p s = nextfMicroStep s) ∨
    ((s.rspValid p.rst && p.rspReady) = false ∧ s.computing = false ∧ settle p s = s) := by
  unfold settle
  cases h : s.rspValid p.rst && p.rspReady
  · cases hc : s.computing
    · exact .inr (.inr ⟨rfl, rfl, by simp⟩)
    · exact .inr (.inl ⟨rfl, rfl, by simp⟩)
  · obtain ⟨h1, h2⟩ := Bool.and_eq_true_iff.1 h
    exact .inl ⟨h1, h2, by simp⟩

/-- One rising edge is a reset, a refusal, an accepted command, or an edge without one (R69–R71). -/
theorem step_cases (s : State) :
    (s.drive.rst = true ∧ s.accepting = none ∧ step s = .next (resetBlock s.advance)) ∨
    (s.drive.rst = false ∧ s.holdKept s.drive = false ∧ step s = .refused .hostBrokeHandshake) ∨
    (s.drive.rst = false ∧ s.holdKept s.drive = true ∧ s.drive.cmdValid = true ∧ s.busy = false ∧
      s.accepting = some s.drive.cmd ∧ step s = perform s.drive.cmd (beginCommand s.advance)) ∨
    (s.drive.rst = false ∧ s.holdKept s.drive = true ∧ (s.drive.cmdValid = false ∨ s.busy = true) ∧
      s.accepting = none ∧ step s = .next (noteOffer s.drive (settle s.drive s.advance))) := by
  unfold step clockEdge accept State.accepting
  cases hr : s.drive.rst
  · cases hh : s.holdKept s.drive
    · exact .inr (.inl ⟨rfl, rfl, by simp [hh]⟩)
    · cases hv : s.drive.cmdValid
      · exact .inr (.inr (.inr ⟨rfl, rfl, .inl rfl, by simp [hv], by simp [hh]⟩))
      · cases hb : s.busy
        · exact .inr (.inr (.inl ⟨rfl, rfl, rfl, rfl, by simp [hr, hh, hv, State.cmdReady, hb], by
            simp [hh, State.cmdReady, hb]⟩))
        · exact .inr (.inr (.inr ⟨rfl, rfl, .inr rfl, by simp [State.cmdReady, hb], by
            simp [hh, State.cmdReady, hb]⟩))
  · exact .inl ⟨rfl, by simp [hr], by simp⟩

end Sys2Proof.Machine
end

