-- ==== Sys2Proof/Laws/Run.lean ====
section
/-! SUPPORT. Runs of several steps: one step more, two runs in a row, and the host's `Core.run`. -/

namespace Sys2Proof.Machine

@[simp] theorem run_zero (s : State) : run 0 s = .next s := rfl

theorem run_succ_of_next {s t : State} (h : step s = .next t) (n : Nat) : run (n + 1) s = run n t := by
  simp [run, h]

theorem run_one (s : State) : run 1 s = step s := by
  unfold run
  cases step s <;> rfl

/-- A run that has a next state began with a step that has one. -/
theorem run_succ_next {s t : State} {n : Nat} (h : run (n + 1) s = .next t) :
    ∃ u, step s = .next u ∧ run n u = .next t := by
  unfold run at h
  split at h
  · exact ⟨_, ‹_›, h⟩
  · cases h
  · cases h

theorem run_add {m : Nat} {s t : State} (h : run m s = .next t) (n : Nat) : run (m + n) s = run n t := by
  induction m generalizing s with
  | zero => cases h; rw [Nat.zero_add]
  | succ m ih =>
    obtain ⟨u, hu, hm⟩ := run_succ_next h
    rw [Nat.succ_add, run_succ_of_next hu, ih hm]

/-- `run` is the host's `Core.run` of this machine. -/
theorem run_eq_core_run (n : Nat) (s : State) : run n s = Host.Core.run Sys2Proof.core n s := by
  induction n generalizing s with
  | zero => rfl
  | succ n ih =>
    cases h : step s with
    | next t =>
      have h' : Sys2Proof.core.step s = .next t := h
      simp only [run, Host.Core.run, h, h']
      exact ih t
    | fault f => cases f
    | refused r =>
      have h' : Sys2Proof.core.step s = .refused r := h
      simp only [run, Host.Core.run, h, h']
      rfl

/-! ## One step, by what the host drives -/

theorem drive_of_cons {s : State} {p : PortIn} {rest : List PortIn} (h : s.pins = p :: rest) : s.drive = p := by
  simp [State.drive, h]

/-- A presented command is accepted and performed (R70, R71). -/
theorem step_of_presents {s : State} {c : Command} (h : Presents s c) :
    step s = perform c (beginCommand s.advance) := by
  obtain ⟨h1, h2, h3, h4, h5⟩ := h
  rcases step_cases s with ⟨h, _⟩ | ⟨_, h, _⟩ | ⟨_, _, _, _, _, h⟩ | ⟨_, _, h, _⟩
  · rw [h2] at h; cases h
  · rw [h5] at h; cases h
  · rw [h, h4]
  · rcases h with h | h
    · rw [h3] at h; cases h
    · rw [h1] at h; cases h

theorem presents_of_cons {s : State} {c : Command} {rest : List PortIn} (hb : s.busy = false) (ho : s.offer = none)
    (h : s.pins = PortIn.offering c :: rest) : Presents s c := by
  refine ⟨hb, ?_, ?_, ?_, ?_⟩ <;> simp [drive_of_cons h, PortIn.offering, State.holdKept, ho]

end Sys2Proof.Machine
end

