-- ==== Sys2Proof/Tests/Slice0.lean ====
section
/-! SUPPORT. The package's own tests. Expected values are the spec's (95_test_vectors.md, or the rule named), never the
model's. The `witness_` theorems show, for every statement with hypotheses, a concrete input that meets them all. -/

namespace Sys2Proof.Tests
open Sys2Proof.Machine

/-! ## Well-formedness: the one check, with an ill-formed term (R181) -/

theorem test_wellFormed_refuses_register_7 : (Instr.rdreg 7).wellFormed = false := by decide

theorem test_wellFormed_refuses_register_63 : (Instr.rdreg 63).wellFormed = false := by decide

theorem test_wellFormed_accepts_register_6 : (Instr.rdreg 6).wellFormed = true := by decide

theorem test_registerIndexLegal_is_up_to_6 : registerIndexLegal 6 = true ∧ registerIndexLegal 7 = false := by decide

/-! ## Decoding: words written out bit by bit from R60 and spec/opcode_table.json -/

theorem test_decode_seed_of_four :
    decode ⟨0b0000000000000000000000000_100_0001#32, dataBus 1 2 3 4⟩ = .instr (.seed 4 1 2 3 4) := by decide

theorem test_decode_seed_of_seven : decodeTableWord 32 0x71 = some (.seed 7 0 0 0 0) := by decide

theorem test_decode_next : decodeTableWord 32 0b00000000000000000000000000000010 = some .next := by decide

theorem test_decode_nextf : decodeTableWord 32 0b00000000000000000000000000000011 = some .nextf := by decide

/-- `ROTL x, 23` is 0x00001704 (V-R). -/
theorem test_decode_rotl :
    decode ⟨0b000000000000000000_010111_0000_0100#32, dataBus 9 0 0 0⟩ = .instr (.rotl 23 9) := by decide

/-- `RDREG cnt` is 0x00000405 (P1). -/
theorem test_decode_rdreg : decodeTableWord 32 0b000000000000000000_000100_0000_0101 = some (.rdreg 4) := by decide

/-- The words of V-X and V-S that are not legal, each with its reason. -/
theorem test_decode_rejects_by_name :
    [0x00000000#32, 0x00000006#32, 0x0000000F#32, 0x00000012#32, 0x00000014#32, 0x00000102#32, 0x00000141#32,
     0x00000081#32, 0x00004002#32, 0x80000002#32, 0x00000705#32, 0x00003F05#32].map (fun w => decode ⟨w, 0⟩) =
    [.illegal .reservedOp, .illegal .reservedOp, .illegal .reservedOp, .illegal .countNotZero, .illegal .countNotZero,
     .illegal .argumentNotZero, .illegal .argumentNotZero, .illegal .reservedBits, .illegal .reservedBits,
     .illegal .reservedBits, .illegal .noSuchRegister, .illegal .noSuchRegister] := by decide

/-- R65: `d_i` is `cmd_data[64*i + 63 : 64*i]`. -/
theorem test_data_words_stand_lowest_first :
    (List.range 4).map (dataWord (1#256 ||| (2#256 <<< 64) ||| (3#256 <<< 128) ||| (4#256 <<< 192))) =
      [1#64, 2#64, 3#64, 4#64] := by decide

/-! ## The assembler (R72, R73) -/

/-- `ROTL 0x1, 63` is 0x00003F04 with `d_0 = 1` (V-R, V-X). -/
theorem test_assemble_rotl :
    assembleLine ['R', 'O', 'T', 'L', ' ', '0', 'x', '1', ',', ' ', '6', '3', ' ', ';', 'c'] =
      some [⟨0x00003F04#32, 1#256⟩] := by decide +kernel

/-- `SEED 1, 2, 3` is 0x00000031 (P5). -/
theorem test_assemble_seed :
    (assembleLine ['S', 'E', 'E', 'D', ' ', '1', ',', '2', ',', '3']).map (List.map Command.word) =
      some [0x00000031#32] := by decide +kernel

theorem test_assemble_rdreg_by_name :
    assembleLine ['R', 'D', 'R', 'E', 'G', ' ', 's', 't', 'a', 't', 'u', 's'] = some [⟨0x00000605#32, 0⟩] := by
  decide +kernel

theorem test_assemble_gen : assembleLine ['G', 'E', 'N', ' ', '2'] = some [⟨0x3#32, 0⟩, ⟨0x3#32, 0⟩] := by
  decide +kernel

theorem test_assemble_refuses_rotl_by_64 : assembleLine ['R', 'O', 'T', 'L', ' ', '1', ',', '6', '4'] = none := by
  decide +kernel

/-! ## Small states -/

/-- A block with a generator, its words and countdown given. -/
def seededWith (w : Words) (cnt : BitVec 11) : State :=
  { State.reset with gen := ⟨w, cnt, 0⟩, seeded := true }

/-- The next state, if there is one. -/
def stateAfter : Host.Outcome State Fault Refusal → Option State
  | .next t => some t
  | .fault _ => none
  | .refused _ => none

/-- The reason of a refusal, if there is one. -/
def refusalOf : Host.Outcome State Fault Refusal → Option Refusal
  | .next _ => none
  | .fault _ => none
  | .refused r => some r

/-- The response after one instruction. -/
def answer (o : Host.Outcome State Fault Refusal) : Option Response := (stateAfter o).bind State.rsp

/-- What a generator becomes by one instruction. -/
def genAfter (o : Host.Outcome State Fault Refusal) : Option Generator := (stateAfter o).map State.gen

/-! ## The parts of the draw -/

/-- V-R. -/
theorem test_rotator :
    rotl64 0x0123456789ABCDEF#64 23 = 0xB3C4D5E6F78091A2#64 ∧ rotl64 0x0123456789ABCDEF#64 45 = 0x79BDE02468ACF135#64 ∧
    rotl64 0x8000000000000000#64 1 = 1#64 ∧ rotl64 0x0123456789ABCDEF#64 0 = 0x0123456789ABCDEF#64 := by decide

/-- V-D1, V-D3 and V-D5, the update alone. -/
theorem test_update :
    Words.update ⟨1, 2, 3, 4⟩ = ⟨0x7#64, 0x0#64, 0x40002#64, 0x0000C00000000000#64⟩ ∧
    Words.update ⟨0x0000C00000000007#64, 0x40005#64, 0x40005#64, 0x18000000#64⟩ =
      ⟨0x0000C00018040002#64, 0x0000C00000000007#64, 0x0000C008000E0002#64, 0x8000A00000000300#64⟩ ∧
    Words.update ⟨-1, -1, -1, -1⟩ = ⟨-1, -1, 0xFFFFFFFFFFFE0000#64, 0⟩ := by decide

/-- V-D1, V-D3 and V-D5, the result alone. -/
theorem test_scramble :
    Words.scramble ⟨1, 2, 3, 4⟩ = 0x0000000002800001#64 ∧
    Words.scramble ⟨0x0000C00000000007#64, 0x40005#64, 0x40005#64, 0x18000000#64⟩ = 0x000CC00003800067#64 ∧
    Words.scramble ⟨-1, -1, -1, -1⟩ = 0xFFFFFFFFFF7FFFFE#64 := by decide

/-- V-H, first row. -/
theorem test_reseed :
    reseed ⟨1, 2, 3, 4⟩ =
      ⟨0x7236C00C170036C6#64, 0xDE133A878210DDD5#64, 0x8567AA1D0619A0F7#64, 0x0F69E38AE6F916E9#64⟩ := by decide +kernel

/-- V-H, last row. -/
theorem test_reseed_of_large_words :
    reseed ⟨0x48731F38D570F412#64, 0xE6C48789255C1035#64, 0x5291FC24011B678D#64, 0x3D561B244476EF65#64⟩ =
      ⟨0x01BE2F331445974F#64, 0x78B9F027C8475D76#64, 0xDF3F1A3BBB0C153B#64, 0xB698ADD9EAB53C14#64⟩ := by decide +kernel

/-- V-F. -/
theorem test_finite_filter :
    [0x0000000000000000#64, 0x8000000000000000#64, 0x000FFFFFFFFFFFFF#64, 0x7FEFFFFFFFFFFFFF#64,
     0xFFEFFFFFFFFFFFFF#64].all isFinite64 = true ∧
    [0x7FF0000000000000#64, 0xFFF0000000000000#64, 0x7FF8000000000000#64, 0x7FF0000000000001#64,
     0xFFFFFFFFFFFFFFFF#64].any isFinite64 = false := by decide

/-! ## One step of each command -/

/-- V-S: SEED with N = 4 on a fresh block answers (0, 0). -/
theorem test_seed :
    stateAfter (step (State.reset.presented ⟨0x41#32, dataBus 1 2 3 4⟩)) =
      some { seededWith ⟨1, 2, 3, 4⟩ 0 with busy := true, rsp := some ⟨0, 0⟩ } := by decide

/-- V-S: a SEED word with N = 3 on a fresh block answers (1, 0x12). -/
theorem test_seed_of_three : answer (step (State.reset.withFetchWord 32 0x31)) = some ⟨1, 0x12⟩ := by decide

/-- V-D1 by NEXT, with a countdown that does not reach a reseed. -/
theorem test_next :
    genAfter (exec .next (seededWith ⟨1, 2, 3, 4⟩ 5)) = some ⟨⟨0x7, 0x0, 0x40002, 0x0000C00000000000⟩, 4, 1⟩ ∧
    answer (exec .next (seededWith ⟨1, 2, 3, 4⟩ 5)) = some ⟨0, 0x0000000002800001⟩ := by decide

/-- V-D6: the first NEXT after SEED 1, 2, 3, 4. -/
theorem test_next_after_seed :
    genAfter (exec .next (seededWith ⟨1, 2, 3, 4⟩ 0)) =
      some ⟨⟨0xA34C190173E9FDFA, 0x2942509693094BE4, 0x825E6E30AAB39631, 0x39679A2F5B21AC9D⟩, 1000, 1⟩ ∧
    answer (exec .next (seededWith ⟨1, 2, 3, 4⟩ 0)) = some ⟨0, 0x3DB5BCB2EEC10717⟩ := by decide +kernel

/-- V-NF2: with `FINITE_CAP = some 1` the first NEXTF after SEED 0, 0, 0, 198 is RetryExhausted. -/
theorem test_nextf_exhausts_its_cap :
    answer (exec .nextf { seededWith ⟨0, 0, 0, 198⟩ 0 with config := ⟨some 1⟩ }) = some ⟨4, 0x43⟩ := by decide +kernel

/-- V-NF1: without a cap the first micro-step after SEED 0, 0, 0, 198 gives no answer, and the second gives draw 2. -/
theorem test_nextf_draws_again :
    answer (run 2 ((seededWith ⟨0, 0, 0, 198⟩ 0).presented ⟨0x3#32, 0⟩)) = some ⟨0, 0x8DBAFF311B3FFF33⟩ := by
  decide +kernel

/-- V-X: ROTL by 63 before any SEED. -/
theorem test_rotl : answer (exec (.rotl 63 1) State.reset) = some ⟨0, 0x8000000000000000⟩ := by decide

/-- R181: one register of each kind; and STATUS of a seeded block (P1). -/
theorem test_rdreg :
    [2, 4, 5, 6].map (fun r => answer (exec (.rdreg r) (seededWith ⟨1, 2, 3, 4⟩ 1000))) =
      [some ⟨0, 3⟩, some ⟨0, 0x3E8⟩, some ⟨0, 0⟩, some ⟨0, 1⟩] := by decide

/-- V-X: on a fresh block RDREG s0 is NotSeeded, RDREG status answers 0, and an illegal word is IllegalCommand. -/
theorem test_fresh_block :
    [0x005, 0x605, 0x705].map (fun w => answer (step (State.reset.withFetchWord 32 w))) =
      [some ⟨2, 0x22⟩, some ⟨0, 0⟩, some ⟨3, 0x32⟩] := by decide

/-- P6: once FAULTED, the block answers every word with HALTED and STATUS, an illegal one too. -/
theorem test_halted :
    [0x002, 0x102].map (fun w =>
      answer (step ({ seededWith ⟨1, 2, 3, 4⟩ 0 with faulted := true, ecode := 3 }.withFetchWord 32 w))) =
      [some ⟨0xF, 0x33⟩, some ⟨0xF, 0x33⟩] := by decide

/-! ## The port -/

/-- R70, U7: the host withdraws a command it offered to a busy block. -/
theorem test_withdrawn_offer_is_refused :
    refusalOf (run 2 { State.reset with
      busy := true, rsp := some ⟨0, 0⟩, pins := [PortIn.offering ⟨0x2#32, 0⟩, PortIn.quiet] }) =
      some .hostBrokeHandshake := by decide

/-- R231: a reset edge discards a NEXTF in progress. -/
theorem test_reset_discards_a_nextf :
    stateAfter (step
      { seededWith ⟨1, 2, 3, 4⟩ 7 with busy := true, nfTries := 3, pins := [⟨true, false, ⟨0, 0⟩, false⟩] }) =
      some State.reset := by decide

/-! ## Witnesses: for each statement with hypotheses, an input that meets them all -/

/-- A generator without a reseed ahead: its first two draws are NaN patterns and its third is finite
(`rotl64(s3, 23) = 0x7FF0000000000000`). -/
def rejecting : Generator := ⟨⟨0, 0, 0x1000000000, 0x000000FFE0000000⟩, 9, 0⟩

/-- A block with that generator, a cap, and a host that offers NEXTF and then does nothing. -/
def rejectingBlock (cap : Option Nat) : State :=
  { State.reset with
    gen := rejecting, seeded := true, config := ⟨cap⟩
    pins := [PortIn.offering ⟨0x3#32, 0⟩, PortIn.quiet, PortIn.quiet] }

/-- A block without a generator, FAULTED by NotSeeded. -/
def faultedBlock : State := { State.reset with faulted := true, ecode := 2 }

/-- A block whose response waits. -/
def waitingBlock (rspReady : Bool) : State :=
  { State.reset with busy := true, rsp := some ⟨0, 5⟩, pins := [⟨false, false, ⟨0, 0⟩, rspReady⟩] }

theorem rejectingBlock_inv : BlockInv (rejectingBlock (some 2)) :=
  { blockInv_of_idle rfl (by decide) rfl rfl rfl rfl with }

theorem faultedBlock_inv : BlockInv faultedBlock := blockInv_of_notSeeded rfl rfl rfl rfl rfl rfl

theorem witness_DecodingAnEncodedInstructionGivesItBack :
    (Instr.rdreg 6).wellFormed = true ∧ (Instr.rotl 63 (-1)).wellFormed = true := by decide

theorem witness_EncodingADecodedCommandGivesItBack :
    decode ⟨0x41#32, dataBus 1 2 3 4⟩ = .instr (.seed 4 1 2 3 4) ∧
    decode ⟨0x3F04#32, dataBus 1 2 3 4⟩ = .instr (.rotl 63 1) := by decide

theorem witness_DecoderAcceptsExactlyTheLegalWords :
    (0x71#32 = 0x1#32 ||| (7#3).setWidth 32 <<< 4 ∧ 7#3 ≠ 4#3 ∧ State.reset.faulted = false) ∧
    legal 0x705#32 = false := by decide

theorem witness_UnusedDataWordsHaveNoEffect :
    ∀ w ∈ [0x2#32, 0x31#32, 0x1704#32],
      ∃ c d : Command, c.word = w ∧ d.word = w ∧ c ≠ d ∧
        (opField c.word = 0x4#4 → dataWord c.data 0 = dataWord d.data 0) ∧
        (c.word = 0x00000041#32 → c.data = d.data) := by
  intro w hw
  refine ⟨⟨w, dataBus 1 2 3 4⟩, ⟨w, dataBus 1 5 6 7⟩, rfl, rfl, ?_, fun _ => by simp, fun h => ?_⟩
  · simp only [ne_eq, Command.mk.injEq, true_and]; decide
  · simp only at h; subst h; exact absurd hw (by decide)

theorem witness_AssemblerLinesGiveTheirCommands :
    ([1, 2, 3, 4, 5, 6, 7] : List Word).length ≤ 7 ∧ ([1, 2, 3, 4, 5, 6, 7] : List Word)[3]? = some 4 := by decide

theorem witness_RotateMovesEveryBitByK : (1 ≤ 1 ∧ 1 ≤ 63) ∧ 1 ≤ 63 ∧ 63 ≤ 63 := by decide

theorem witness_RotationsInvertAndCompose : (1 ≤ 63 ∧ 63 ≤ 63) ∧ 0 ≤ 63 := by decide

theorem witness_RotlAnswersTheRotatedWord : State.reset.faulted = false := rfl

theorem witness_RotlCommandFollowsItsRule :
    (opField 0x1704#32 = 0x4#4 ∧ legal 0x1704#32 = true) ∧ opField 0x14#32 = 0x4#4 ∧ legal 0x14#32 = false := by decide

theorem witness_SeedOfFourWordsConstructsAGenerator : State.reset.faulted = false := rfl

theorem witness_SeedOfAnyOtherCountIsInvalid : 0#3 ≠ 4#3 ∧ State.reset.faulted = false := by decide

theorem witness_SeedCommandFollowsItsRule :
    opField 0x41#32 = 0x1#4 ∧ opField 0x31#32 = 0x1#4 ∧ opField 0x141#32 = 0x1#4 ∧ legal 0x141#32 = false := by decide

theorem witness_SeedReplacesTheWholeGenerator : (seededWith ⟨5, 6, 7, 8⟩ 3).faulted = false := rfl

theorem witness_FirstDrawAfterSeedReadsTheReseededState : (seededWith ⟨5, 6, 7, 8⟩ 3).faulted = false := rfl

theorem witness_ScheduleFollowsItsRecurrence : (List.replicate 16 (1 : U32)).length = 16 := by decide

theorem witness_ReseedsEvery1001Draws : (0 ≤ 1000 ∧ 1000 ≤ 1000) ∧ 1001 % 1001 = 0 ∧ 1000 % 1001 ≠ 0 := by decide

theorem witness_AllZeroStateStaysUntilAReseed :
    (Generator.mk ⟨0, 0, 0, 0⟩ 1000 0).words = ⟨0, 0, 0, 0⟩ ∧ 999 < (Generator.mk ⟨0, 0, 0, 0⟩ 1000 0).cnt.toNat := by
  decide

theorem witness_UpdateIsInjective : Words.update ⟨1, 2, 3, 4⟩ = Words.update ⟨1, 2, 3, 4⟩ := rfl

theorem witness_NextAnswersOneRawDraw :
    (seededWith ⟨1, 2, 3, 4⟩ 0).faulted = false ∧ (seededWith ⟨1, 2, 3, 4⟩ 0).seeded = true := by decide

theorem witness_NextCommandFollowsItsRule : opField 0x2#32 = 0x2#4 ∧ opField 0x102#32 = 0x2#4 := by decide

theorem witness_NextfMakesItsFirstMicroStep :
    (rejectingBlock none).faulted = false ∧ (rejectingBlock none).seeded = true ∧
    isFinite64 (seededWith ⟨1, 2, 3, 4⟩ 5).gen.draw.1 = true ∧
    (isFinite64 (rejectingBlock (some 1)).gen.draw.1 = false ∧ (rejectingBlock (some 1)).config.finiteCap = some 1) ∧
    (isFinite64 (rejectingBlock (some 2)).gen.draw.1 = false ∧ (rejectingBlock (some 2)).config.finiteCap ≠ some 1) := by
  decide

theorem witness_NextfAnswersTheFirstFiniteDraw :
    let s := rejectingBlock (some 3)
    s.busy = false ∧ s.offer = none ∧ s.faulted = false ∧ s.seeded = true ∧
    s.pins = PortIn.offering ⟨0x3#32, 0⟩ :: [PortIn.quiet, PortIn.quiet] ∧ QuietFor 2 [PortIn.quiet, PortIn.quiet] ∧
    (∀ i, i < 2 → isFinite64 (s.gen.word i) = false) ∧ isFinite64 (s.gen.word 2) = true ∧
    (∀ c, s.config.finiteCap = some c → 2 < c) := by
  refine ⟨rfl, rfl, rfl, rfl, rfl, by unfold QuietFor; decide, by decide, by decide, ?_⟩
  intro c h; cases h; decide

theorem witness_NextfExhaustsItsCap :
    let s := rejectingBlock (some 2)
    1 ≤ 2 ∧ s.config.finiteCap = some 2 ∧
    s.busy = false ∧ s.offer = none ∧ s.faulted = false ∧ s.seeded = true ∧
    s.pins = PortIn.offering ⟨0x3#32, 0⟩ :: [PortIn.quiet, PortIn.quiet] ∧ QuietFor 1 [PortIn.quiet, PortIn.quiet] ∧
    (∀ i, i < 2 → isFinite64 (s.gen.word i) = false) :=
  ⟨by decide, rfl, rfl, rfl, rfl, rfl, rfl, by unfold QuietFor; decide, by decide⟩

theorem witness_NextfGoesOnWhileDrawsAreRejected :
    let s := rejectingBlock none
    s.busy = false ∧ s.offer = none ∧ s.faulted = false ∧ s.seeded = true ∧
    s.pins = PortIn.offering ⟨0x3#32, 0⟩ :: [PortIn.quiet, PortIn.quiet] ∧ QuietFor 1 [PortIn.quiet, PortIn.quiet] ∧
    (∀ i, i ≤ 1 → isFinite64 (s.gen.word i) = false) ∧ (∀ c, s.config.finiteCap = some c → 2 < c) :=
  ⟨rfl, rfl, rfl, rfl, rfl, by unfold QuietFor; decide, by decide,
    fun _ h => nomatch h⟩

theorem witness_OkResponsesOfNextfAreFinite :
    answer (exec .nextf (seededWith ⟨1, 2, 3, 4⟩ 5)) = some ⟨0#4, 0x2800001⟩ ∧
    { seededWith ⟨1, 2, 3, 4⟩ 5 with busy := true, nfTries := 1 }.computing = true ∧
    answer (step { seededWith ⟨1, 2, 3, 4⟩ 5 with busy := true, nfTries := 1 }) = some ⟨0#4, 0x2800001⟩ := by decide

theorem witness_RdregAnswersTheNamedRegister :
    ((seededWith ⟨1, 2, 3, 4⟩ 1000).faulted = false ∧ (5#6).toNat ≤ 6 ∧ (seededWith ⟨1, 2, 3, 4⟩ 1000).seeded = true) ∧
    (State.reset.faulted = false ∧ (6#6).toNat ≤ 6 ∧ ¬ (6#6).toNat ≤ 5) ∧ 7 ≤ (7#6).toNat ∧
    BlockInv (seededWith ⟨1, 2, 3, 4⟩ 1000) :=
  ⟨by decide, by decide, by decide, blockInv_of_idle rfl (by decide) rfl rfl rfl rfl⟩

theorem witness_RdregCommandFollowsItsRule :
    opField 0x605#32 = 0x5#4 ∧ legal 0x605#32 = true ∧ opField 0x705#32 = 0x5#4 ∧ legal 0x705#32 = false := by decide

theorem witness_RotlAndRdregHaveNoSideEffects :
    answer (exec (.rotl 4 1) State.reset) = some ⟨0#4, 16⟩ ∧ answer (exec (.rdreg 6) faultedBlock) = some ⟨0xF#4, 0x22⟩ := by
  decide

theorem witness_FaultedBlockAnswersHalted : faultedBlock.faulted = true := rfl

theorem witness_CommandsWithoutAGeneratorRaiseNotSeeded :
    State.reset.faulted = false ∧ State.reset.seeded = false ∧ (0#6).toNat ≤ 5 ∧ (5#6).toNat ≤ 5 := by decide

theorem witness_IllegalWordsRaiseIllegalCommand :
    State.reset.faulted = false ∧ legal 0x0#32 = false ∧ legal 0x80000002#32 = false := by decide

theorem witness_OnlyResetLeavesTheFaultedState :
    BlockInv faultedBlock ∧ faultedBlock.faulted = true ∧ faultedBlock.drive.rst = false ∧
    (stateAfter (step faultedBlock)).isSome = true :=
  ⟨faultedBlock_inv, by decide⟩

theorem witness_FaultOutputIsTheFaultedBit :
    { faultedBlock with pins := [⟨true, false, ⟨0, 0⟩, false⟩] }.drive.rst = true ∧
    BlockInv faultedBlock ∧ (faultedBlock.outputs false).fault = true ∧ faultedBlock.drive.rst = false ∧
    (stateAfter (step faultedBlock)).isSome = true :=
  ⟨by decide, faultedBlock_inv, by decide⟩

theorem witness_StepRunsThePresentedCommand :
    Presents (rejectingBlock none) ⟨0x3#32, 0⟩ ∧ decode ⟨0x3#32, 0⟩ = .instr .nextf ∧
    Presents (State.reset.presented ⟨0x0#32, 0⟩) ⟨0x0#32, 0⟩ :=
  ⟨⟨rfl, rfl, rfl, rfl, rfl⟩, by decide, rfl, rfl, rfl, rfl, rfl⟩

theorem witness_StepRunsTheFetchedWord : decodeTableWord 32 0x605 = some (.rdreg 6) := by decide

theorem witness_ResetEdgeClearsTheBlock :
    { rejectingBlock none with pins := [⟨true, true, ⟨0x2#32, 0⟩, true⟩] }.drive.rst = true := rfl

theorem witness_WaitingResponseIsHeldUntilTaken :
    let s := waitingBlock false
    s.busy = true ∧ s.rsp = some ⟨0, 5⟩ ∧ s.drive.rst = false ∧ s.drive.rspReady = false ∧
    s.holdKept s.drive = true := by decide

theorem witness_TakingTheResponseFreesTheBlock :
    let s := waitingBlock true
    s.busy = true ∧ s.rsp = some ⟨0, 5⟩ ∧ s.drive.rst = false ∧ s.drive.rspReady = true ∧
    s.holdKept s.drive = true := by decide

theorem witness_IdleBlockHoldsAllState :
    let s := seededWith ⟨1, 2, 3, 4⟩ 0
    s.busy = false ∧ s.rsp = none ∧ s.offer = none ∧ s.drive.rst = false ∧ s.drive.cmdValid = false := by decide

theorem witness_OnlySeedSetsSeeded :
    let s := State.reset.presented ⟨0x41#32, dataBus 1 2 3 4⟩
    (stateAfter (step s)).map State.seeded = some true ∧ s.drive.rst = false := by decide

theorem witness_GeneratorChangesOnlyInItsCommands :
    let s := (seededWith ⟨1, 2, 3, 4⟩ 5).presented ⟨0x2#32, 0⟩
    genAfter (step s) = some s.gen.draw.2 ∧ s.drive.rst = false := by decide

theorem witness_CommandsLeaveTheHandshakeAlone :
    (stateAfter (exec .next (rejectingBlock none))).isSome = true ∧ (rejectingBlock none).pins ≠ [] := by decide

theorem witness_EveryStepKeepsTheInvariant :
    BlockInv (rejectingBlock (some 2)) ∧ (stateAfter (step (rejectingBlock (some 2)))).isSome = true :=
  ⟨rejectingBlock_inv, by decide⟩

theorem witness_UnwrittenGeneratorCannotBeObserved :
    let s := faultedBlock
    let t := { faultedBlock with gen := rejecting }
    BlockInv s ∧ BlockInv t ∧ SameButUnwritten s t ∧ s ≠ t :=
  ⟨faultedBlock_inv, blockInv_of_notSeeded rfl rfl rfl rfl rfl rfl, ⟨rfl, fun h => nomatch h⟩, by decide⟩

/-- Two hosts that give the same commands: the second waits before it takes a response and before it offers again. -/
theorem witness_SameSeedGivesTheSameResponses :
    let seed := encode (.seed 4#3 1 2 3 4)
    let s := { State.reset with
      pins := [PortIn.offering seed, PortIn.taking, PortIn.offering ⟨0x605#32, 0⟩, PortIn.taking] }
    let t := { seededWith ⟨5, 6, 7, 8⟩ 9 with
      pins := [PortIn.offering seed, PortIn.quiet, PortIn.taking, PortIn.quiet, PortIn.offering ⟨0x605#32, 0⟩,
        PortIn.taking, PortIn.offering ⟨0x3#32, 0⟩] }
    BlockInv s ∧ BlockInv t ∧ s.faulted = false ∧ t.faulted = false ∧ s.config = t.config ∧
    Presents s seed ∧ Presents t seed ∧ NoReset 4 s ∧ NoReset 7 t ∧
    accepted 4 s <+: accepted 7 t ∧ accepted 4 s = [seed, ⟨0x605#32, 0⟩] :=
  ⟨blockInv_of_idle rfl (by decide) rfl rfl rfl rfl, blockInv_of_idle rfl (by decide) rfl rfl rfl rfl, rfl, rfl, rfl,
    ⟨rfl, rfl, rfl, rfl, rfl⟩, ⟨rfl, rfl, rfl, rfl, rfl⟩, by unfold NoReset; decide, by unfold NoReset; decide,
    by decide +kernel⟩

theorem witness_EachAcceptedCommandGetsOneResponse :
    let s := rejectingBlock (some 2)
    BlockInv s ∧ NoReset 2 s ∧ (stateAfter (run 2 s)).isSome = true :=
  ⟨rejectingBlock_inv, by unfold NoReset; decide, by decide⟩

theorem witness_NextResponsesAreTheDrawStream :
    let s := { seededWith ⟨1, 2, 3, 4⟩ 5 with pins := serve (List.replicate 2 ⟨0x2#32, 0⟩) ++ [PortIn.quiet] }
    s.busy = false ∧ s.offer = none ∧ s.faulted = false ∧ s.seeded = true ∧
    s.pins = serve (List.replicate 2 ⟨0x00000002#32, 0⟩) ++ [PortIn.quiet] := by decide

theorem witness_ServedCommandsAnswerInOrder :
    let cs : List Command := [⟨0x41#32, dataBus 1 2 3 4⟩, ⟨0x605#32, 0⟩, ⟨0x0#32, 0⟩]
    let s := { State.reset with pins := serve cs ++ [] }
    s.busy = false ∧ s.offer = none ∧ s.pins = serve cs ++ [] ∧ ∀ c ∈ cs, decode c ≠ .instr .nextf := by
  refine ⟨rfl, rfl, rfl, ?_⟩
  simp only [List.mem_cons, List.not_mem_nil, or_false, forall_eq_or_imp, forall_eq]
  decide

end Sys2Proof.Tests
end

section
/-! PROOFS. STATUS, the state after reset, the frame of a command, and what can change the flags. -/

namespace Sys2Proof.Machine

/-! ## STATUS (R28) -/

/-- The bits of STATUS from the lowest up (R28). -/
theorem getLsbD_statusWord (seeded faulted : Bool) (ecode : BitVec 4) (i : Nat) :
    (statusWord seeded faulted ecode).getLsbD i =
      if i = 0 then seeded else if i = 1 then faulted else if i < 4 then false else ecode.getLsbD (i - 4) := by
  show (0#56 ++ ecode ++ 0#2 ++ BitVec.ofBool faulted ++ BitVec.ofBool seeded : BitVec (56 + 4 + 2 + 1 + 1)).getLsbD i = _
  simp only [BitVec.getLsbD_append]
  match i with
  | 0 | 1 | 2 | 3 => simp
  | i + 4 =>
    have hlt : ecode.getLsbD i = true → i < 4 := BitVec.lt_of_getLsbD
    simpa [show ¬ i + 4 < 4 by omega] using hlt

/-- Settles O35: the bits of STATUS are those of its five fields. -/
theorem statusShowsTheFlagsAndZeros : Obligations.StatusShowsTheFlagsAndZeros := by
  intro s
  simp only [State.status, getLsbD_statusWord]
  refine ⟨rfl, rfl, rfl, rfl, ?_, fun i hi => ?_⟩
  · apply BitVec.eq_of_getLsbD_eq
    intro i hi
    simp [getLsbD_statusWord, hi, show 4 + i ≠ 1 by omega]
  · rw [if_neg (by omega), if_neg (by omega), if_neg (by omega), BitVec.getLsbD_of_ge _ _ (by omega)]

/-! ## Reset (R32) -/

/-- Settles O46: each value is a field of `State.reset` or is computed from its fields. -/
theorem resetStateHasTheStatedValues : Obligations.ResetStateHasTheStatedValues :=
  ⟨rfl, rfl, rfl, rfl, rfl, rfl, rfl, rfl, rfl⟩

/-- Settles O54: the block is idle after reset, without a fault, and the standard build has no cap. -/
theorem invariantHoldsAtReset : Obligations.InvariantHoldsAtReset :=
  blockInv_of_idle rfl (Nat.zero_le _) rfl rfl rfl rfl

/-! ## The frame of a command (R28, R71) -/

/-- No effect of a command touches the handshake's state or the build. -/
theorem Effect.frame {i : Instr} {s t : State} (h : Effect i s t) :
    t.busy = s.busy ∧ t.offer = s.offer ∧ t.pins = s.pins ∧ t.config = s.config := by
  cases h with
  | microStep => simp
  | _ => exact ⟨rfl, rfl, rfl, rfl⟩

/-- What `exec` answers is one of the effects of its instruction. -/
theorem effect_of_exec {i : Instr} {s t : State} (h : exec i s = .next t) : Effect i s t := by
  obtain ⟨u, hu, he⟩ := exec_effect i s
  obtain rfl := Host.Outcome.next.inj (hu.symm.trans h)
  exact he

/-- Settles O53, by the effects of a command. -/
theorem commandsLeaveTheHandshakeAlone : Obligations.CommandsLeaveTheHandshakeAlone :=
  fun _ _ _ h => (effect_of_exec h).frame

/-! ## The flags SEEDED and FAULTED (R26, R27, R210) -/

/-- Of all effects only a SEED of four words changes SEEDED (R26). -/
theorem Effect.seeded {i : Instr} {s t : State} (h : Effect i s t) :
    t.seeded = s.seeded ∨
      (t.seeded = true ∧ s.faulted = false ∧ ∃ d0 d1 d2 d3, i = .seed 4#3 d0 d1 d2 d3) := by
  cases h with
  | constructed d0 d1 d2 d3 hf hi => exact .inr ⟨rfl, hf, d0, d1, d2, d3, hi⟩
  | microStep => exact .inl (by simp)
  | _ => exact .inl rfl

@[simp] theorem settle_seeded (p : PortIn) (s : State) : (settle p s).seeded = s.seeded := by
  rcases settle_cases p s with ⟨-, -, h⟩ | ⟨-, -, h⟩ | ⟨-, -, h⟩ <;> simp [h]

/-- Settles O51: an edge without a transfer keeps SEEDED, and so does every accepted command but a SEED of four words. -/
theorem onlySeedSetsSeeded : Obligations.OnlySeedSetsSeeded := by
  intro s t h hrst
  rcases step_cases s with ⟨hr, -⟩ | ⟨-, -, hs⟩ | ⟨-, -, -, -, ha, hs⟩ | ⟨-, -, -, -, hs⟩
  · simp [hrst] at hr
  · simp [hs] at h
  · obtain ⟨u, hu, hc⟩ := perform_effect s.drive.cmd (beginCommand s.advance)
    obtain rfl := Host.Outcome.next.inj (hu.symm.trans (hs.symm.trans h))
    rcases hc with ⟨i, hi, he⟩ | ⟨-, ⟨-, rfl⟩ | ⟨-, rfl⟩⟩
    · refine he.seeded.imp id fun ⟨ht, hf, d0, d1, d2, d3, hd⟩ => ?_
      exact ⟨ht, hf, s.drive.cmd, d0, d1, d2, d3, ha, hi.trans (congrArg _ hd)⟩
    · exact .inl rfl
    · exact .inl rfl
  · obtain rfl := Host.Outcome.next.inj (hs.symm.trans h)
    exact .inl (by simp)

/-- A FAULTED block answers every command HALTED, an illegal one too (R205). -/
theorem perform_of_faulted (c : Command) {s : State} (hf : s.faulted = true) : perform c s = .next (halted s) := by
  unfold perform
  cases decode c with
  | instr i => cases i <;> exact congrArg _ (unlessFaulted_of_faulted hf)
  | illegal _ => exact congrArg _ (unlessFaulted_of_faulted hf)

/-- Settles O41: a FAULTED block that meets the invariant has no NEXTF in progress, so an edge answers HALTED, releases
a response, or does nothing. -/
theorem onlyResetLeavesTheFaultedState : Obligations.OnlyResetLeavesTheFaultedState := by
  intro s t hinv hf hrst h
  rcases step_cases s with ⟨hr, -⟩ | ⟨-, -, hs⟩ | ⟨-, -, -, -, -, hs⟩ | ⟨-, -, -, -, hs⟩
  · simp [hrst] at hr
  · simp [hs] at h
  · have hp : perform s.drive.cmd (beginCommand s.advance) = .next (halted (beginCommand s.advance)) :=
      perform_of_faulted _ hf
    obtain rfl := Host.Outcome.next.inj (hp.symm.trans (hs.symm.trans h))
    exact ⟨hf, rfl, rfl, rfl⟩
  · obtain rfl := Host.Outcome.next.inj (hs.symm.trans h)
    rcases settle_cases s.drive s.advance with ⟨-, -, hc⟩ | ⟨-, hc, -⟩ | ⟨-, -, hc⟩
    · simp [hc, hf]
    · obtain ⟨-, hnf, -⟩ := hinv.computingReady hc
      simp [hf] at hnf
    · simp [hc, hf]

end Sys2Proof.Machine
end

section
/-! PROOFS. Every step keeps the block's invariant. -/

namespace Sys2Proof.Machine

/-! ## The codes of the faults (R200) -/

theorem Cause.code_toNat_le (f : Cause) : f.code.toNat ≤ 4 := by cases f <;> decide

@[simp] theorem Cause.code_ne_zero (f : Cause) : f.code ≠ 0#4 := by cases f <;> decide

/-- No two causes share a code. -/
theorem Cause.code_inj {f g : Cause} : f.code = g.code → f = g := by
  cases f <;> cases g <;> decide

/-! ## The invariant -/

/-- The part of `BlockInv` about the registers of R20 and the build, without the transient state of R31. It holds inside
a command too, while there is no response yet. -/
structure RegisterInv (s : State) : Prop where
  capLegal : s.config.legal = true
  cntRange : s.seeded = true → s.gen.cnt.toNat ≤ 1000
  ecodeLegal : s.ecode.toNat ≤ 4
  faultRecorded : s.faulted = true ↔ s.ecode ≠ 0#4
  notSeededRecorded : s.ecode = Cause.notSeeded.code → s.seeded = false
  retryRecorded : s.ecode = Cause.retryExhausted.code → s.config.finiteCap ≠ none ∧ s.seeded = true

theorem BlockInv.registerInv {s : State} (h : BlockInv s) : RegisterInv s := { h with }

namespace RegisterInv

variable {s t : State}

/-- `RegisterInv` speaks of five fields only. -/
theorem congr (h : RegisterInv s) (hg : t.gen = s.gen) (hs : t.seeded = s.seeded) (hf : t.faulted = s.faulted)
    (he : t.ecode = s.ecode) (hc : t.config = s.config) : RegisterInv t where
  capLegal := hc ▸ h.capLegal
  cntRange := by rw [hs, hg]; exact h.cntRange
  ecodeLegal := he ▸ h.ecodeLegal
  faultRecorded := by rw [hf, he]; exact h.faultRecorded
  notSeededRecorded := by rw [he, hs]; exact h.notSeededRecorded
  retryRecorded := by rw [he, hc, hs]; exact h.retryRecorded

theorem ecode_eq_zero (h : RegisterInv s) (hf : s.faulted = false) : s.ecode = 0#4 := by
  by_contra he
  simp [h.faultRecorded.2 he] at hf

/-- A fault may be recorded where its cause is possible (R202, R204). -/
theorem raised (h : RegisterInv s) {f : Cause} (hn : f = .notSeeded → s.seeded = false)
    (hr : f = .retryExhausted → s.config.finiteCap ≠ none ∧ s.seeded = true) : RegisterInv (raise f s) where
  capLegal := h.capLegal
  cntRange := h.cntRange
  ecodeLegal := f.code_toNat_le
  faultRecorded := by simp
  notSeededRecorded he := hn (Cause.code_inj he)
  retryRecorded he := hr (Cause.code_inj he)

/-- A new generator with its countdown in range, of a block without a fault (R100, R144). -/
theorem withGen (h : RegisterInv s) (hf : s.faulted = false) {g : Generator} (hg : g.cnt.toNat ≤ 1000) :
    RegisterInv { s with gen := g, seeded := true } where
  capLegal := h.capLegal
  cntRange _ := hg
  ecodeLegal := h.ecodeLegal
  faultRecorded := h.faultRecorded
  notSeededRecorded he := absurd (h.ecode_eq_zero hf ▸ he) (by decide)
  retryRecorded he := absurd (h.ecode_eq_zero hf ▸ he) (by decide)

/-- A draw of a generator keeps its countdown in range (R23). -/
theorem drawn (h : RegisterInv s) (hf : s.faulted = false) (hs : s.seeded = true) :
    RegisterInv { s with gen := s.gen.draw.2 } :=
  (h.withGen hf (draw_cnt_le _ (h.cntRange hs))).congr rfl hs rfl rfl rfl

/-- A busy block with a legal response meets the invariant. -/
theorem blockInv_of_response (h : RegisterInv s) (hb : s.busy = true) {r : Response} (hr : s.rsp = some r)
    (hl : ResponseLegal s r) : BlockInv s where
  __ := h
  idleEmpty hi := by simp [hb] at hi
  computingReady hc := by simp [State.computing, hr] at hc
  pendingLegal r' hr' := by
    obtain rfl : r = r' := by simpa [hr] using hr'
    exact hl

/-- A block that has no response yet meets the invariant if a NEXTF can be in progress (R163). -/
theorem blockInv_of_computing (h : RegisterInv s) (hr : s.rsp = none) (hs : s.seeded = true)
    (hf : s.faulted = false) (hc : ∀ c, s.config.finiteCap = some c → s.nfTries < c) : BlockInv s where
  __ := h
  idleEmpty _ := hr
  computingReady _ := ⟨hs, hf, hc⟩
  pendingLegal r' hr' := by simp [hr] at hr'

/-- An OK answer of a block without a fault (R67). -/
theorem blockInv_respond (h : RegisterInv s) (hb : s.busy = true) (hf : s.faulted = false) (v : Word) :
    BlockInv (respond statusOk v s) :=
  blockInv_of_response (h.congr rfl rfl rfl rfl rfl) hb rfl (.inl ⟨rfl, hf⟩)

/-- The answer of a fault entry (R208). -/
theorem blockInv_raise (h : RegisterInv s) (hb : s.busy = true) {f : Cause} (hn : f = .notSeeded → s.seeded = false)
    (hr : f = .retryExhausted → s.config.finiteCap ≠ none ∧ s.seeded = true) : BlockInv (raise f s) :=
  blockInv_of_response (h.raised hn hr) hb rfl (.inr ⟨.inl rfl, rfl, rfl⟩)

/-- The answer of a FAULTED block (R205). -/
theorem blockInv_halted (h : RegisterInv s) (hb : s.busy = true) (hf : s.faulted = true) : BlockInv (halted s) :=
  blockInv_of_response (h.congr rfl rfl rfl rfl rfl) hb rfl (.inr ⟨.inr rfl, hf, rfl⟩)

end RegisterInv

/-- A micro-step of a NEXTF whose tries are below the cap: an answer, the cap reached, or tries still below it (R165). -/
theorem nextfMicroStep_blockInv {s : State} (h : RegisterInv s) (hb : s.busy = true) (hr : s.rsp = none)
    (hs : s.seeded = true) (hf : s.faulted = false) (hc : ∀ c, s.config.finiteCap = some c → s.nfTries < c) :
    BlockInv (nextfMicroStep s) := by
  have hd : RegisterInv (drawAndCount s) := (h.drawn hf hs).congr rfl rfl rfl rfl rfl
  rcases nextfMicroStep_cases s with ⟨-, e⟩ | ⟨-, hcap, e⟩ | ⟨-, hcap, e⟩ <;> rw [e]
  · exact hd.blockInv_respond hb hf _
  · exact hd.blockInv_raise hb (by simp) fun _ => ⟨by simp [hcap], hs⟩
  · refine hd.blockInv_of_computing hr hs hf fun c hcc => ?_
    have hlt := hc c hcc
    have hne : c ≠ s.nfTries + 1 := fun e => hcap (e ▸ hcc)
    simp only [drawAndCount_nfTries]
    omega

/-- Every effect of a command on a busy block leaves the invariant (R71). -/
theorem Effect.blockInv {i : Instr} {s t : State} (he : Effect i s t) (h : RegisterInv s) (hb : s.busy = true) :
    BlockInv t := by
  cases he with
  | halted hf => exact h.blockInv_halted hb hf
  | raised f _ hs hr => exact h.blockInv_raise hb hs fun e => absurd e hr
  | answered v hf _ => exact h.blockInv_respond hb hf v
  | constructed d0 d1 d2 d3 hf _ => exact (h.withGen hf (Nat.zero_le _)).blockInv_respond hb hf 0
  | drew hf hs _ => exact (h.drawn hf hs).blockInv_respond hb hf _
  | microStep hf hs _ =>
    refine nextfMicroStep_blockInv (h.congr rfl rfl rfl rfl rfl) hb rfl hs hf fun c hc => Nat.pos_of_ne_zero ?_
    rintro rfl
    have hcap := h.capLegal
    simp [Config.legal, show s.config.finiteCap = some 0 from hc] at hcap

/-- An accepted command leaves the invariant, an illegal one too. -/
theorem perform_blockInv {c : Command} {s t : State} (h : RegisterInv s) (hb : s.busy = true)
    (ht : perform c s = .next t) : BlockInv t := by
  obtain ⟨u, hu, hc⟩ := perform_effect c s
  obtain rfl := Host.Outcome.next.inj (hu.symm.trans ht)
  rcases hc with ⟨i, -, he⟩ | ⟨-, ⟨hf, rfl⟩ | ⟨-, rfl⟩⟩
  · exact he.blockInv h hb
  · exact h.blockInv_halted hb hf
  · exact h.blockInv_raise hb (by simp) (by simp)

/-- The host's offer and inputs are no part of the invariant. -/
theorem BlockInv.withHost {s : State} (h : BlockInv s) (o : Option Command) (ps : List PortIn) :
    BlockInv { s with offer := o, pins := ps } := { h with }

/-- Taking the response leaves an idle block. -/
theorem BlockInv.release {s : State} (h : BlockInv s) : BlockInv (release s) where
  __ := h
  idleEmpty _ := rfl
  computingReady hc := by simp [State.computing] at hc
  pendingLegal r hr := by simp at hr

/-- An edge without a transfer of a command keeps the invariant. -/
theorem BlockInv.settle {s : State} (h : BlockInv s) (p : PortIn) : BlockInv (settle p s) := by
  rcases settle_cases p s with ⟨-, -, e⟩ | ⟨-, hc, e⟩ | ⟨-, -, e⟩ <;> rw [e]
  · exact h.release
  · obtain ⟨hs, hf, hcap⟩ := h.computingReady hc
    obtain ⟨hb, hr⟩ := Bool.and_eq_true_iff.1 hc
    exact nextfMicroStep_blockInv h.registerInv hb (Option.isNone_iff_eq_none.1 hr) hs hf hcap
  · exact h

/-- Settles O55, by the kinds of a rising edge. -/
theorem everyStepKeepsTheInvariant : Obligations.EveryStepKeepsTheInvariant := by
  intro s t h hst
  rcases step_cases s with ⟨-, -, hs⟩ | ⟨-, -, hs⟩ | ⟨-, -, -, -, -, hs⟩ | ⟨-, -, -, -, hs⟩ <;> rw [hs] at hst
  · obtain rfl := Host.Outcome.next.inj hst
    exact blockInv_of_idle h.capLegal (Nat.zero_le _) rfl rfl rfl rfl
  · cases hst
  · have hb : RegisterInv (beginCommand s.advance) := h.registerInv.congr rfl rfl rfl rfl rfl
    exact perform_blockInv hb rfl hst
  · obtain rfl := Host.Outcome.next.inj hst
    exact ((h.withHost s.offer s.pins.tail).settle s.drive).withHost _ _

end Sys2Proof.Machine
end

section
/-! PROOFS. The generator's registers before a SEED cannot be observed (R26, R32): everything a step is made of gives
outcomes that cannot be told apart from states that cannot be told apart. -/

namespace Sys2Proof.Machine

namespace SameButUnwritten

variable {s t : State}

theorem exists_gen (h : SameButUnwritten s t) : ∃ g, t = { s with gen := g } := ⟨_, h.1⟩

theorem refl (s : State) : SameButUnwritten s s := ⟨rfl, fun _ => rfl⟩

/-- With a generator there is no difference left. -/
theorem eq_of_seeded (h : SameButUnwritten s t) (hs : s.seeded = true) : t = s := by rw [h.1, ← h.2 hs]

theorem seeded_eq (h : SameButUnwritten s t) : t.seeded = s.seeded := by rw [h.1]

theorem faulted_eq (h : SameButUnwritten s t) : t.faulted = s.faulted := by rw [h.1]

/-- An update that does not touch the generator and SEEDED keeps the relation. -/
theorem map (h : SameButUnwritten s t) {f : State → State} (hf : ∀ u g, f { u with gen := g } = { f u with gen := g })
    (hs : (f s).seeded = s.seeded) : SameButUnwritten (f s) (f t) := by
  have hsg : (f s).gen = s.gen := (congrArg State.gen (hf s s.gen) :)
  have ht : f t = { f s with gen := t.gen } := (congrArg f h.1).trans (hf s t.gen)
  have htg : (f t).gen = t.gen := (congrArg State.gen ht :)
  refine ⟨by rw [htg]; exact ht, fun hfs => ?_⟩
  rw [hsg, htg]
  exact h.2 (hs ▸ hfs)

theorem respond (h : SameButUnwritten s t) (c : BitVec 4) (v : Word) :
    SameButUnwritten (respond c v s) (respond c v t) := h.map (fun _ _ => rfl) rfl

theorem raise (h : SameButUnwritten s t) (f : Cause) : SameButUnwritten (raise f s) (raise f t) :=
  h.map (fun _ _ => rfl) rfl

/-- The checks for a fault and for a generator read what the two states share. -/
theorem unlessFaulted {k : State → State} (h : SameButUnwritten s t) (hk : SameButUnwritten (k s) (k t)) :
    SameButUnwritten (unlessFaulted k s) (unlessFaulted k t) := by
  cases hf : s.faulted
  · rwa [unlessFaulted_of_not hf, unlessFaulted_of_not (h.faulted_eq.trans hf)]
  · rw [unlessFaulted_of_faulted hf, unlessFaulted_of_faulted (h.faulted_eq.trans hf)]
    exact h.map (fun _ _ => rfl) rfl

/-- What is behind the check for a generator sees two equal states. -/
theorem requireSeeded (h : SameButUnwritten s t) (k : State → State) :
    SameButUnwritten (requireSeeded k s) (requireSeeded k t) := by
  cases hs : s.seeded
  · rw [requireSeeded_of_not hs, requireSeeded_of_not (h.seeded_eq.trans hs)]
    exact h.raise .notSeeded
  · rw [h.eq_of_seeded hs]
    exact refl _

/-- A SEED gives both states the same generator (R102). -/
theorem construct (h : SameButUnwritten s t) (g : Generator) :
    SameButUnwritten (construct g s) (construct g t) := by
  obtain ⟨g', rfl⟩ := h.exists_gen
  exact refl _

end SameButUnwritten

/-- The register an unseeded block can read, STATUS, is none of the generator's (R180, R181). -/
theorem readReg_withGen {r : BitVec 6} (hr : regNeedsSeed r = false) (s : State) (g : Generator) :
    readReg r { s with gen := g } = readReg r s := by
  have h6 : ¬ r.toNat ≤ 5 := by simpa [regNeedsSeed] using hr
  unfold readReg
  split
  case h_7 => rfl
  case h_8 => rfl
  all_goals omega

/-- RDREG of a register of the generator, while there is none (R202). -/
theorem execRdreg_of_unseeded {r : BitVec 6} {s : State} (hr : regNeedsSeed r = true) (hs : s.seeded = false) :
    execRdreg r s = .next (unlessFaulted (raise .notSeeded) s) := by
  have h5 : r.toNat ≤ 5 := by simpa [regNeedsSeed] using hr
  have hv : readReg r s ≠ none := by
    rw [Ne, readReg_eq_none_iff, registerIndexLegal, decide_eq_false_iff_not]
    omega
  obtain ⟨v, hv⟩ := Option.ne_none_iff_exists'.1 hv
  simp [execRdreg, unlessFaulted, hv, hr, requireSeeded_of_not hs]

/-- Two outcomes of one kind, with next states that cannot be told apart. -/
inductive SameOutcome : Host.Outcome State Fault Refusal → Host.Outcome State Fault Refusal → Prop
  | next {s t : State} (h : SameButUnwritten s t) : SameOutcome (.next s) (.next t)
  | refused (r : Refusal) : SameOutcome (.refused r) (.refused r)

theorem SameOutcome.refl : (o : Host.Outcome State Fault Refusal) → SameOutcome o o
  | .next s => .next (.refl s)
  | .refused r => .refused r

namespace SameButUnwritten

variable {s t : State}

/-- RDREG reads the generator only where there is one (R202). -/
theorem execRdreg (h : SameButUnwritten s t) (r : BitVec 6) : SameOutcome (execRdreg r s) (execRdreg r t) := by
  cases hn : regNeedsSeed r
  · have hv : readReg r t = readReg r s := by rw [h.1]; exact readReg_withGen hn s t.gen
    refine .next (h.unlessFaulted ?_)
    rw [hv, hn]
    cases readReg r s with
    | none => exact h.raise _
    | some v => exact h.respond _ _
  · cases hs : s.seeded
    · rw [execRdreg_of_unseeded hn hs, execRdreg_of_unseeded hn (h.seeded_eq.trans hs)]
      exact .next (h.unlessFaulted (h.raise _))
    · rw [h.eq_of_seeded hs]
      exact .refl _

/-- An instruction does the same to both. -/
theorem exec (h : SameButUnwritten s t) (i : Instr) : SameOutcome (exec i s) (exec i t) := by
  cases i with
  | seed n d0 d1 d2 d3 =>
    refine .next (h.unlessFaulted ?_)
    split
    · exact (h.construct _).respond _ _
    · exact h.raise _
  | next => exact .next (h.unlessFaulted (h.requireSeeded _))
  | nextf => exact .next (h.unlessFaulted (h.requireSeeded _))
  | rotl k x => exact .next (h.unlessFaulted (h.respond _ _))
  | rdreg r => exact h.execRdreg r

theorem perform (h : SameButUnwritten s t) (c : Command) : SameOutcome (perform c s) (perform c t) := by
  unfold Machine.perform
  cases decode c with
  | instr i => exact h.exec i
  | illegal _ => exact .next (h.unlessFaulted (h.raise _))

/-- Without a transfer of a command: a NEXTF in progress has a generator (R163). -/
theorem settle (h : SameButUnwritten s t) (hc : s.computing = true → s.seeded = true) (p : PortIn) :
    SameButUnwritten (settle p s) (settle p t) := by
  have hv : t.rspValid p.rst = s.rspValid p.rst := by rw [h.1]; rfl
  have hct : t.computing = s.computing := by rw [h.1]; rfl
  unfold Machine.settle
  rw [hv, hct]
  split
  · exact h.map (fun _ _ => rfl) rfl
  · split
    · rw [h.eq_of_seeded (hc ‹_›)]
      exact refl _
    · exact h

/-- One rising edge with the same inputs. -/
theorem clockEdge (h : SameButUnwritten s t) (hc : s.computing = true → s.seeded = true) (p : PortIn) :
    SameOutcome (clockEdge p s) (clockEdge p t) := by
  have hk : t.holdKept p = s.holdKept p := by rw [h.1]; rfl
  have hr : t.cmdReady p.rst = s.cmdReady p.rst := by rw [h.1]; rfl
  have hb : resetBlock t = resetBlock s := by rw [h.1]; rfl
  unfold Machine.clockEdge
  rw [hk, hr, hb]
  split
  · exact .refl _
  · split
    · exact .refl _
    · split
      · exact (h.map (fun _ _ => rfl) rfl).perform p.cmd
      · exact .next ((h.settle hc p).map (fun _ _ => rfl) rfl)

end SameButUnwritten

/-- Settles O56: the outputs do not read the generator, and an edge does the same to both states. -/
theorem unwrittenGeneratorCannotBeObserved : Obligations.UnwrittenGeneratorCannotBeObserved := by
  intro s t hs _ h
  have hstep : SameOutcome (step s) (step t) := by
    have hd : t.drive = s.drive := by rw [h.1]; rfl
    have ha : SameButUnwritten s.advance t.advance := h.map (fun _ _ => rfl) rfl
    unfold step
    rw [hd]
    exact ha.clockEdge (fun hc => (hs.computingReady hc).1) _
  refine ⟨fun rst => ?_, ?_, ?_⟩
  · rw [h.1]; rfl
  · rw [h.1]; rfl
  · generalize step s = o, step t = o' at hstep
    cases hstep with
    | next h' => exact .inl ⟨_, _, rfl, rfl, h'⟩
    | refused r => exact .inr ⟨r, rfl, rfl⟩

end Sys2Proof.Machine
end

section
/-! PROOFS. The bytes of the hash message and the reading of a digest (R10, R41, R42). -/

namespace Sys2Proof.Machine

/-! ## BE8 and u64be (R10) -/

@[simp] theorem length_be8 (w : Word) : (be8 w).length = 8 := by simp [be8]

theorem getElem?_be8 (w : Word) {j : Nat} (hj : j < 8) : (be8 w)[j]? = some (w.extractLsb' (56 - 8 * j) 8) := by
  simp [be8, hj]

/-- Reading one byte more shifts what was read by a byte. -/
theorem u64be_concat (bytes : List Byte) (b : Byte) :
    u64be (bytes ++ [b]) = (u64be bytes <<< 8) ||| b.setWidth 64 := by
  simp [u64be]

/-- The part of a word above bit `n + 8`, with the byte below it put at its end, is the part above bit `n`. -/
theorem shiftRight_or_byte (w : Word) (n : Nat) :
    ((w >>> (n + 8)) <<< 8) ||| (w.extractLsb' n 8).setWidth 64 = w >>> n := by
  apply BitVec.eq_of_getLsbD_eq
  intro i hi
  by_cases h8 : i < 8
  · simp [h8, hi]
  · simp [h8, hi, show n + 8 + (i - 8) = n + i by omega]

/-- The first `k` bytes of a word, read back, are its highest `8 * k` bits. -/
theorem u64be_first_bytes (w : Word) (k : Nat) (hk : k ≤ 8) :
    u64be ((List.range k).map fun j => w.extractLsb' (56 - 8 * j) 8) = w >>> (64 - 8 * k) := by
  induction k with
  | zero => exact (BitVec.ushiftRight_eq_zero (Nat.le_refl 64)).symm
  | succ k ih =>
    rw [List.range_succ, List.map_append, List.map_singleton, u64be_concat, ih (by omega),
      show 64 - 8 * k = 56 - 8 * k + 8 by omega, shiftRight_or_byte, show 64 - 8 * (k + 1) = 56 - 8 * k by omega]

@[simp] theorem u64be_be8 (w : Word) : u64be (be8 w) = w := u64be_first_bytes w 8 (Nat.le_refl 8)

/-! ## The message (R41, R42) -/

@[simp] theorem Words.length_bytes (w : Words) : w.bytes.length = 32 := by simp [Words.bytes]

/-- The bytes of four words are read as those words (R42). -/
@[simp] theorem Words.ofBytes_bytes (w : Words) : Words.ofBytes w.bytes = w := by
  simp [Words.ofBytes, Words.bytes, List.drop_append, List.take_of_length_le, List.drop_of_length_le]

/-- Byte `j` of word `i` stands at `8 * i + j` in the message (R41). -/
theorem Words.getElem?_bytes (w : Words) {j : Nat} (hj : j < 8) :
    w.bytes[j]? = (be8 w.s0)[j]? ∧ w.bytes[8 + j]? = (be8 w.s1)[j]? ∧
    w.bytes[16 + j]? = (be8 w.s2)[j]? ∧ w.bytes[24 + j]? = (be8 w.s3)[j]? := by
  have h16 : 16 + j = 8 + (8 + j) := by omega
  have h24 : 24 + j = 8 + (8 + (8 + j)) := by omega
  simp [Words.bytes, List.append_assoc, h16, h24, List.getElem?_append, hj]

/-- Settles O16, by the bytes of one word and their places in the message. -/
theorem hashMessageIsTheWordsBigEndian : Obligations.HashMessageIsTheWordsBigEndian := by
  intro w
  refine ⟨w.length_bytes, w.ofBytes_bytes, fun j hj => ?_⟩
  simpa only [getElem?_be8 _ hj] using w.getElem?_bytes hj

end Sys2Proof.Machine
end

section
/-! PROOFS. ROTL and RDREG have no side effects (R46, R182). -/

namespace Sys2Proof.Machine

/-- Settles O34: the effects of these two are HALTED, an answer, or a fault before any draw, whose code is neither 0 nor
0xF. -/
theorem rotlAndRdregHaveNoSideEffects : Obligations.RotlAndRdregHaveNoSideEffects := by
  intro i s t hi h
  cases effect_of_exec h with
  | halted | answered => exact ⟨rfl, rfl, fun _ => ⟨rfl, rfl⟩⟩
  | raised f =>
    refine ⟨rfl, rfl, fun hr => ?_⟩
    rcases hr _ rfl with h0 | hF
    · exact absurd h0 f.code_ne_zero
    · have hle : f.code.toNat ≤ 4 := f.code_toNat_le
      rw [show f.code = 0xF#4 from hF] at hle
      exact absurd hle (by decide)
  | constructed _ _ _ _ _ hd => simp [hd] at hi
  | drew _ _ hd => simp [hd] at hi
  | microStep _ _ hd => simp [hd] at hi

end Sys2Proof.Machine
end

section
/-! PROOFS. The port serves commands one after the other (R45, R47, R70): what a command but NEXTF does depends on the
registers of R20 alone, and two edges carry it out and deliver its response. -/

namespace Sys2Proof.Machine

/-! ## The registers of R20 -/

/-- The block `p` with the registers of R20 as `s` has them: the transient state, the build and the host are `p`'s. -/
def State.withRegisters (p s : State) : State :=
  { p with gen := s.gen, seeded := s.seeded, faulted := s.faulted, ecode := s.ecode }

/-- From the registers of `s` the operation `k` makes new registers and a response, whatever the rest of the block. -/
def AnswersFromRegisters (k : State → State) (s : State) : Prop :=
  ∃ (t : State) (status : BitVec 4) (data : Word),
    ∀ p : State, k (p.withRegisters s) = respond status data (p.withRegisters t)

/-- A read of a register of `p.withRegisters s` is one of `s`. -/
@[simp] theorem readReg_withRegisters (r : BitVec 6) (p s : State) : readReg r (p.withRegisters s) = readReg r s := rfl

namespace AnswersFromRegisters

variable {k : State → State} {s : State}

/-- Only what `k` does on the registers of `s` matters. -/
theorem congr {k' : State → State} (h : AnswersFromRegisters k' s)
    (e : ∀ p : State, k (p.withRegisters s) = k' (p.withRegisters s)) : AnswersFromRegisters k s := by
  obtain ⟨t, c, v, h⟩ := h
  exact ⟨t, c, v, fun p => (e p).trans (h p)⟩

theorem respond (c : BitVec 4) (v : Word) (s : State) : AnswersFromRegisters (respond c v) s :=
  ⟨s, c, v, fun _ => rfl⟩

theorem raise (f : Cause) (s : State) : AnswersFromRegisters (raise f) s :=
  ⟨recordFault f s, f.code, (recordFault f s).status, fun _ => rfl⟩

/-- Check 1 of R209 reads a register. -/
theorem unlessFaulted (h : AnswersFromRegisters k s) : AnswersFromRegisters (unlessFaulted k) s := by
  cases hf : s.faulted
  · exact h.congr fun _ => unlessFaulted_of_not hf
  · exact ⟨s, statusHalted, s.status, fun p => unlessFaulted_of_faulted (s := p.withRegisters s) hf⟩

/-- Check 4 of R209 reads a register. -/
theorem requireSeeded (h : AnswersFromRegisters k s) : AnswersFromRegisters (requireSeeded k) s := by
  cases hs : s.seeded
  · exact (raise .notSeeded s).congr fun _ => requireSeeded_of_not hs
  · exact h.congr fun _ => requireSeeded_of_seeded hs

end AnswersFromRegisters

/-- Every instruction but NEXTF answers at once, from the registers alone (R45, R46). -/
theorem exec_answersFromRegisters {i : Instr} (hi : i ≠ .nextf) (s : State) :
    ∃ k, exec i = (fun u => .next (k u)) ∧ AnswersFromRegisters k s := by
  cases i with
  | seed n d0 d1 d2 d3 =>
    refine ⟨_, rfl, .unlessFaulted ?_⟩
    split
    · exact ⟨construct (Generator.ofSeed d0 d1 d2 d3) s, statusOk, 0, fun _ => rfl⟩
    · exact .raise _ s
  | next =>
    refine ⟨_, rfl, .unlessFaulted (.requireSeeded ?_)⟩
    exact ⟨{ s with gen := s.gen.draw.2 }, statusOk, s.gen.draw.1, fun _ => rfl⟩
  | nextf => exact absurd rfl hi
  | rotl k x => exact ⟨_, rfl, .unlessFaulted (.respond _ _ s)⟩
  | rdreg r =>
    refine ⟨_, rfl, .unlessFaulted ?_⟩
    cases hv : readReg r s with
    | none => exact (AnswersFromRegisters.raise .illegalCommand s).congr fun p => by simp [hv]
    | some v =>
      have hok : AnswersFromRegisters (respond statusOk v) s := .respond _ _ s
      cases hn : regNeedsSeed r
      · exact hok.congr fun p => by simp [hv]
      · exact hok.requireSeeded.congr fun p => by simp [hv]

/-- So does every accepted command, an illegal one too (R203). -/
theorem perform_answersFromRegisters {c : Command} (hc : decode c ≠ .instr .nextf) (s : State) :
    ∃ k, perform c = (fun u => .next (k u)) ∧ AnswersFromRegisters k s := by
  unfold perform
  cases hd : decode c with
  | instr i => exact exec_answersFromRegisters (fun hi => hc (by rw [hd, hi])) s
  | illegal why => exact ⟨_, rfl, .unlessFaulted (.raise _ s)⟩

/-! ## Two edges serve a command (R70, R71) -/

/-- An accepted command, an illegal one too, leaves the handshake's state and the build alone. -/
theorem perform_frame {c : Command} {s t : State} (h : perform c s = .next t) :
    t.busy = s.busy ∧ t.offer = s.offer ∧ t.pins = s.pins ∧ t.config = s.config := by
  obtain ⟨u, hu, hc⟩ := perform_effect c s
  obtain rfl := Host.Outcome.next.inj (hu.symm.trans h)
  rcases hc with ⟨i, -, he⟩ | ⟨-, ⟨-, rfl⟩ | ⟨-, rfl⟩⟩
  · exact he.frame
  · exact ⟨rfl, rfl, rfl, rfl⟩
  · exact ⟨rfl, rfl, rfl, rfl⟩

/-- No response is taken at an edge at which a command is transferred. -/
theorem delivering_of_presents {s : State} {c : Command} (h : Presents s c) : s.delivering = none := by
  obtain ⟨hb, hr, hv, -, hk⟩ := h
  simp [State.delivering, State.accepting, State.cmdReady, hb, hr, hv, hk]

/-- The block after an edge at which the host takes the response: the response is gone, and `busy <- 0`. -/
def State.served (s : State) : State := noteOffer .taking (release s.advance)

/-- A host that owes no offer takes the response that waits. -/
theorem step_of_taking {s : State} {r : Response} {rest : List PortIn} (hr : s.rsp = some r) (ho : s.offer = none)
    (hp : s.pins = PortIn.taking :: rest) :
    s.delivering = some r ∧ step s = .next s.served := by
  have hd : s.drive = .taking := drive_of_cons hp
  constructor
  · simp [State.delivering, State.accepting, hd, PortIn.taking, State.holdKept, ho, State.rspValid, hr]
  · simp [State.served, step, clockEdge, settle, hd, PortIn.taking, State.holdKept, ho, State.rspValid, hr]

/-- An offered command is carried out whole at one edge and its response taken at the next. -/
theorem serve_one {s t : State} {c : Command} {r : Response} {rest : List PortIn} (hb : s.busy = false)
    (ho : s.offer = none) (hp : s.pins = PortIn.offering c :: PortIn.taking :: rest)
    (ht : perform c (beginCommand s.advance) = .next t) (hr : t.rsp = some r) :
    run 2 s = .next t.served ∧ t.served.pins = rest ∧ ∀ n, delivered (n + 2) s = r :: delivered n t.served := by
  have hpre : Presents s c := presents_of_cons hb ho hp
  have hs : step s = .next t := (step_of_presents hpre).trans ht
  obtain ⟨-, hto, htp, -⟩ := perform_frame ht
  have htp : t.pins = PortIn.taking :: rest := by simpa [hp] using htp
  obtain ⟨hdel, hst⟩ := step_of_taking hr hto htp
  refine ⟨?_, ?_, fun n => ?_⟩
  · rw [run_succ_of_next hs, run_one, hst]
  · simp [State.served, htp]
  · simp [delivered, hs, hst, hdel, delivering_of_presents hpre]

/-! ## The responses of the commands served -/

/-- The port serves `cs` on any block with the registers of `u` as they are carried out on `u` itself. -/
theorem delivered_serve (cs : List Command) (hn : ∀ c ∈ cs, decode c ≠ .instr .nextf) (p u : State)
    (rest : List PortIn) (hb : p.busy = false) (ho : p.offer = none) (hp : p.pins = serve cs ++ rest) :
    delivered (2 * cs.length) (p.withRegisters u) = transact cs u := by
  induction cs generalizing p u with
  | nil => rfl
  | cons c cs ih =>
    obtain ⟨hc, hcs⟩ := List.forall_mem_cons.1 hn
    obtain ⟨k, hk, t, status, data, hkt⟩ := perform_answersFromRegisters hc u
    have hport : perform c (beginCommand (p.withRegisters u).advance) = .next _ :=
      (congrFun hk _).trans (congrArg _ (hkt (beginCommand p.advance)))
    have hwhole : perform c u = .next _ := (congrFun hk u).trans (congrArg _ (hkt u))
    obtain ⟨-, hrest, hdel⟩ := serve_one (s := p.withRegisters u) hb ho hp hport rfl
    have htrans : transact (c :: cs) u = ⟨status, data⟩ :: transact cs (respond status data (u.withRegisters t)) := by
      simp [transact, hwhole]
    rw [List.length_cons, Nat.mul_succ, hdel, htrans]
    exact congrArg _ (ih hcs (respond status data (beginCommand p.advance)).served
      (respond status data (u.withRegisters t)) rfl rfl hrest)

/-- Settles O60: `delivered_serve` with the block's own registers. -/
theorem servedCommandsAnswerInOrder : Obligations.ServedCommandsAnswerInOrder :=
  fun cs s rest hb ho hp hn => delivered_serve cs hn s s rest hb ho hp

/-! ## The responses of NEXT -/

/-- NEXT of a block with a generator and without a fault (R144). -/
theorem perform_next {s : State} (hf : s.faulted = false) (hs : s.seeded = true) :
    perform ⟨0x00000002#32, 0⟩ s = .next (respond statusOk s.gen.draw.1 { s with gen := s.gen.draw.2 }) := by
  have hd : decode ⟨0x00000002#32, 0⟩ = .instr .next := by decide
  simp only [perform, hd]
  exact congrArg _ ((unlessFaulted_of_not hf).trans (requireSeeded_of_seeded hs))

/-- A served NEXT delivers one draw and leaves an idle block with the generator one draw on (R144). -/
theorem serve_next {s : State} {rest : List PortIn} (hb : s.busy = false) (ho : s.offer = none)
    (hf : s.faulted = false) (hs : s.seeded = true)
    (hp : s.pins = PortIn.offering ⟨0x00000002#32, 0⟩ :: PortIn.taking :: rest) :
    ∃ u, run 2 s = .next u ∧ (∀ n, delivered (n + 2) s = ⟨0#4, s.gen.draw.1⟩ :: delivered n u) ∧
      u.gen = s.gen.draw.2 ∧ u.busy = false ∧ u.offer = none ∧ u.faulted = false ∧ u.seeded = true ∧ u.pins = rest := by
  obtain ⟨hrun, hrest, hdel⟩ := serve_one hb ho hp (perform_next (s := beginCommand s.advance) hf hs) rfl
  exact ⟨_, hrun, hdel, rfl, rfl, rfl, hf, hs, hrest⟩

/-- Settles O59, by induction on the number of commands: each answers the next word of the stream (R47). -/
theorem nextResponsesAreTheDrawStream : Obligations.NextResponsesAreTheDrawStream := by
  intro n
  induction n with
  | zero => exact fun s _ _ _ _ _ _ => ⟨rfl, s, rfl, rfl⟩
  | succ n ih =>
    intro s rest hb ho hf hs hp
    obtain ⟨u, hrun, hdel, hgen, hb, ho, hf, hs, hrest⟩ := serve_next hb ho hf hs hp
    obtain ⟨hwords, t, ht, htgen⟩ := ih u rest hb ho hf hs hrest
    refine ⟨?_, t, ?_, ?_⟩
    · rw [Nat.mul_succ, hdel, hwords, hgen, List.range_succ_eq_map, List.map_cons, List.map_map]
      rfl
    · rw [Nat.mul_succ, Nat.add_comm, run_add hrun, ht]
    · rw [htgen, hgen, after_succ]

end Sys2Proof.Machine
end

section
/-! PROOFS. The decoder and the encoder (R60–R66, R72, R73): a legal word is one of the encoder's words, and what the
decoder reads from each of those. -/

namespace Sys2Proof.Machine

/-! ## A word by its fields (R60, R72) -/

theorem eq_seedWord {w : BitVec 32} (hr : reservedZero w = true) (ho : opField w = 0x1#4) (ha : argField w = 0#6) :
    w = seedWord (countField w) := by
  obtain ⟨ho', hn', ha', hr'⟩ := seedWord_fields (countField w)
  exact word_eq_of_fields (ho.trans ho'.symm) hn'.symm (ha.trans ha'.symm) hr hr'

theorem eq_nextWord {w : BitVec 32} (hr : reservedZero w = true) (ho : opField w = 0x2#4) (hn : countField w = 0#3)
    (ha : argField w = 0#6) : w = nextWord :=
  word_eq_of_fields ho hn ha hr (by decide)

theorem eq_nextfWord {w : BitVec 32} (hr : reservedZero w = true) (ho : opField w = 0x3#4) (hn : countField w = 0#3)
    (ha : argField w = 0#6) : w = nextfWord :=
  word_eq_of_fields ho hn ha hr (by decide)

theorem eq_rotlWord {w : BitVec 32} (hr : reservedZero w = true) (ho : opField w = 0x4#4) (hn : countField w = 0#3) :
    w = rotlWord (argField w) := by
  obtain ⟨ho', hn', ha', hr'⟩ := rotlWord_fields (argField w)
  exact word_eq_of_fields (ho.trans ho'.symm) (hn.trans hn'.symm) ha'.symm hr hr'

theorem eq_rdregWord {w : BitVec 32} (hr : reservedZero w = true) (ho : opField w = 0x5#4) (hn : countField w = 0#3) :
    w = rdregWord (argField w) := by
  obtain ⟨ho', hn', ha', hr'⟩ := rdregWord_fields (argField w)
  exact word_eq_of_fields (ho.trans ho'.symm) (hn.trans hn'.symm) ha'.symm hr hr'

/-- A legal word is one of the encoder's (R66). -/
theorem legal_cases {w : BitVec 32} (h : legal w = true) :
    (∃ n, w = seedWord n) ∨ w = nextWord ∨ w = nextfWord ∨ (∃ k, w = rotlWord k) ∨
      ∃ r, registerIndexLegal r = true ∧ w = rdregWord r := by
  simp only [legal, Bool.and_eq_true] at h
  obtain ⟨⟨⟨⟨hr, hop⟩, hn⟩, ha⟩, hreg⟩ := h
  have ho : opField w = 0x1#4 ∨ opField w = 0x2#4 ∨ opField w = 0x3#4 ∨ opField w = 0x4#4 ∨ opField w = 0x5#4 := by
    simpa using hop
  rcases ho with ho | ho | ho | ho | ho <;> simp [ho] at hn ha hreg
  · exact .inl ⟨_, eq_seedWord hr ho ha⟩
  · exact .inr (.inl (eq_nextWord hr ho hn ha))
  · exact .inr (.inr (.inl (eq_nextfWord hr ho hn ha)))
  · exact .inr (.inr (.inr (.inl ⟨_, eq_rotlWord hr ho hn⟩)))
  · exact .inr (.inr (.inr (.inr ⟨_, by simpa [registerIndexLegal] using hreg, eq_rdregWord hr ho hn⟩)))

/-! ## What the decoder reads from the encoder's words -/

theorem decode_seedWord (n : BitVec 3) (d : BitVec 256) :
    decode ⟨seedWord n, d⟩ = .instr (.seed n (dataWord d 0) (dataWord d 1) (dataWord d 2) (dataWord d 3)) := by
  obtain ⟨ho, hn, ha, hr⟩ := seedWord_fields n
  rw [decode_seed ho]
  exact checked_eq_instr.2 ⟨hr, .inl rfl, .inr ha, by rw [hn]⟩

theorem decode_nextWord (d : BitVec 256) : decode ⟨nextWord, d⟩ = .instr .next :=
  (decode_next (by decide : opField nextWord = 0x2#4)).trans
    (by decide : checked nextWord false false .next = .instr .next)

theorem decode_nextfWord (d : BitVec 256) : decode ⟨nextfWord, d⟩ = .instr .nextf :=
  (decode_nextf (by decide : opField nextfWord = 0x3#4)).trans
    (by decide : checked nextfWord false false .nextf = .instr .nextf)

theorem decode_rotlWord (k : BitVec 6) (d : BitVec 256) :
    decode ⟨rotlWord k, d⟩ = .instr (.rotl k (dataWord d 0)) := by
  obtain ⟨ho, hn, ha, hr⟩ := rotlWord_fields k
  rw [decode_rotl ho]
  exact checked_eq_instr.2 ⟨hr, .inr hn, .inl rfl, by rw [ha]⟩

theorem decode_rdregWord {r : BitVec 6} (h : registerIndexLegal r = true) (d : BitVec 256) :
    decode ⟨rdregWord r, d⟩ = .instr (.rdreg r) := by
  obtain ⟨ho, hn, ha, hr⟩ := rdregWord_fields r
  rw [decode_rdreg ho, if_pos (by rwa [ha])]
  exact checked_eq_instr.2 ⟨hr, .inr hn, .inl rfl, by rw [ha]⟩

/-- Settles O2: the decoder reads the operands where the encoder puts them. -/
theorem decodingAnEncodedInstructionGivesItBack : Obligations.DecodingAnEncodedInstructionGivesItBack := by
  intro i hwf
  cases i with
  | seed n d0 d1 d2 d3 => simpa [encode] using decode_seedWord n (dataBus d0 d1 d2 d3)
  | next => exact decode_nextWord 0
  | nextf => exact decode_nextfWord 0
  | rotl k x => simpa [encode] using decode_rotlWord k (dataBus x 0 0 0)
  | rdreg r => exact decode_rdregWord hwf 0

/-! ## From a decoded instruction back to its word -/

/-- Settles O3, by the instructions a command can decode to. -/
theorem encodingADecodedCommandGivesItBack : Obligations.EncodingADecodedCommandGivesItBack := by
  intro c i h
  obtain ⟨hr, ⟨ho, ha, rfl⟩ | ⟨ho, hn, ha, rfl⟩ | ⟨ho, hn, ha, rfl⟩ | ⟨ho, hn, rfl⟩ | ⟨ho, hn, hl, rfl⟩⟩ :=
    decode_cases h
  · exact ⟨rfl, (eq_seedWord hr ho ha).symm, fun _ => dataBus_dataWord _, by simp⟩
  · exact ⟨rfl, (eq_nextWord hr ho hn ha).symm, by simp, by simp⟩
  · exact ⟨rfl, (eq_nextfWord hr ho hn ha).symm, by simp, by simp⟩
  · exact ⟨rfl, (eq_rotlWord hr ho hn).symm, by simp, fun _ => dataWord_dataBus_0 _ _ _ _⟩
  · exact ⟨hl, (eq_rdregWord hr ho hn).symm, by simp, by simp⟩

theorem word_of_decode {c : Command} {i : Instr} (h : decode c = .instr i) : c.word = (encode i).word := by
  obtain ⟨-, hw, -⟩ := encodingADecodedCommandGivesItBack c i h
  exact hw.symm

/-- The encoder's words are legal (R66, R72). -/
theorem legal_encode {i : Instr} (h : i.wellFormed = true) : legal (encode i).word = true := by
  cases i with
  | seed n d0 d1 d2 d3 => exact Laws.EncodesLegal.seed n d0 d1 d2 d3 h
  | next => exact Laws.EncodesLegal.next h
  | nextf => exact Laws.EncodesLegal.nextf h
  | rotl k x => exact Laws.EncodesLegal.rotl k x h
  | rdreg r => exact Laws.EncodesLegal.rdreg r h

theorem legal_of_decode {c : Command} {i : Instr} (h : decode c = .instr i) : legal c.word = true := by
  obtain ⟨hwf, hw, -⟩ := encodingADecodedCommandGivesItBack c i h
  exact hw ▸ legal_encode hwf

theorem illegal_of_not_legal {c : Command} (h : legal c.word = false) : ∃ why, decode c = .illegal why := by
  cases hd : decode c with
  | instr i => simp [legal_of_decode hd] at h
  | illegal why => exact ⟨why, rfl⟩

theorem isSome_decode (c : Command) : (decode c).toOption.isSome = legal c.word := by
  cases hl : legal c.word
  · obtain ⟨why, hd⟩ := illegal_of_not_legal hl
    rw [hd]; rfl
  · obtain ⟨w, d⟩ := c
    obtain ⟨n, rfl⟩ | rfl | rfl | ⟨k, rfl⟩ | ⟨r, hr, rfl⟩ := legal_cases hl
    · rw [decode_seedWord]; rfl
    · rw [decode_nextWord]; rfl
    · rw [decode_nextfWord]; rfl
    · rw [decode_rotlWord]; rfl
    · rw [decode_rdregWord hr]; rfl

/-! ## Which words are legal (R66) -/

theorem decode_seed_iff (c : Command) :
    (∃ n d0 d1 d2 d3, decode c = .instr (.seed n d0 d1 d2 d3)) ↔ ∃ n, c.word = seedWord n := by
  constructor
  · rintro ⟨n, _, _, _, _, h⟩
    exact ⟨n, word_of_decode h⟩
  · obtain ⟨w, d⟩ := c
    rintro ⟨n, rfl⟩
    exact ⟨n, _, _, _, _, decode_seedWord n d⟩

theorem decode_next_iff (c : Command) : decode c = .instr .next ↔ c.word = nextWord := by
  refine ⟨word_of_decode, ?_⟩
  obtain ⟨w, d⟩ := c
  rintro rfl
  exact decode_nextWord d

theorem decode_nextf_iff (c : Command) : decode c = .instr .nextf ↔ c.word = nextfWord := by
  refine ⟨word_of_decode, ?_⟩
  obtain ⟨w, d⟩ := c
  rintro rfl
  exact decode_nextfWord d

theorem decode_rotl_iff (c : Command) : (∃ k x, decode c = .instr (.rotl k x)) ↔ ∃ k, c.word = rotlWord k := by
  constructor
  · rintro ⟨k, _, h⟩
    exact ⟨k, word_of_decode h⟩
  · obtain ⟨w, d⟩ := c
    rintro ⟨k, rfl⟩
    exact ⟨k, _, decode_rotlWord k d⟩

theorem decode_rdreg_iff (c : Command) :
    (∃ r, decode c = .instr (.rdreg r)) ↔ ∃ r, registerIndexLegal r = true ∧ c.word = rdregWord r := by
  constructor
  · rintro ⟨r, h⟩
    obtain ⟨hwf, hw, -⟩ := encodingADecodedCommandGivesItBack c _ h
    exact ⟨r, hwf, hw.symm⟩
  · obtain ⟨w, d⟩ := c
    rintro ⟨r, hr, rfl⟩
    exact ⟨r, decode_rdregWord hr d⟩

/-- The indices of R181's map. -/
theorem registerIndexLegal_iff : ∀ r : BitVec 6,
    registerIndexLegal r = true ↔ r ∈ [0#6, 1#6, 2#6, 3#6, 4#6, 5#6, 6#6] := by
  decide

/-- The seven RDREG words (R72, R181). -/
theorem rdregWord_iff (w : BitVec 32) :
    (∃ r, registerIndexLegal r = true ∧ w = rdregWord r) ↔
      w ∈ [0x005#32, 0x105#32, 0x205#32, 0x305#32, 0x405#32, 0x505#32, 0x605#32] := by
  have hmap : [0x005#32, 0x105#32, 0x205#32, 0x305#32, 0x405#32, 0x505#32, 0x605#32] =
      [0#6, 1#6, 2#6, 3#6, 4#6, 5#6, 6#6].map rdregWord := by decide
  rw [hmap, List.mem_map]
  simp only [registerIndexLegal_iff, eq_comm (a := w)]

/-! ## What a command does, by what it decodes to -/

theorem perform_of_decode {c : Command} {i : Instr} (h : decode c = .instr i) (s : State) : perform c s = exec i s := by
  simp [perform, h]

theorem perform_of_not_legal {w : BitVec 32} (h : legal w = false) (d : BitVec 256) (s : State) :
    perform ⟨w, d⟩ s = .next (unlessFaulted (raise .illegalCommand) s) := by
  obtain ⟨why, hd⟩ := illegal_of_not_legal (c := ⟨w, d⟩) h
  simp [perform, hd]

/-- A SEED of any count but four reads no data word (R101). -/
theorem execSeed_of_ne_four {n : BitVec 3} (h : n ≠ 4#3) (d0 d1 d2 d3 : Word) (s : State) :
    execSeed n d0 d1 d2 d3 s = .next (unlessFaulted (raise .invalidSeed) s) := by
  simp [execSeed, h]

theorem perform_seedWord_of_ne_four {n : BitVec 3} (h : n ≠ 4#3) (d : BitVec 256) (s : State) :
    perform ⟨seedWord n, d⟩ s = .next (unlessFaulted (raise .invalidSeed) s) :=
  (perform_of_decode (decode_seedWord n d) s).trans (execSeed_of_ne_four h _ _ _ _ s)

/-- Settles O4: `legal_cases` and the decoder's answer to each of the encoder's words. -/
theorem decoderAcceptsExactlyTheLegalWords : Obligations.DecoderAcceptsExactlyTheLegalWords := by
  intro c
  refine ⟨isSome_decode c, decode_seed_iff c, decode_next_iff c, decode_nextf_iff c, decode_rotl_iff c,
    (decode_rdreg_iff c).trans (rdregWord_iff c.word), ?_, ?_⟩
  · obtain ⟨w, d⟩ := c
    rintro n s rfl hn hf
    exact (perform_seedWord_of_ne_four hn d s).trans (congrArg _ (unlessFaulted_of_not hf))
  · intro s hl hf
    exact (perform_of_not_legal hl c.data s).trans (congrArg _ (unlessFaulted_of_not hf))

/-- Settles O5: only a ROTL word and the SEED word of four words decode to an instruction that reads the data. -/
theorem unusedDataWordsHaveNoEffect : Obligations.UnusedDataWordsHaveNoEffect := by
  rintro ⟨w, d⟩ ⟨_, e⟩ s rfl hrotl hseed
  cases hl : legal w
  · rw [perform_of_not_legal hl, perform_of_not_legal hl]
  · obtain ⟨n, rfl⟩ | rfl | rfl | ⟨k, rfl⟩ | ⟨r, hr, rfl⟩ := legal_cases hl
    · by_cases hn : n = 4#3
      · subst hn
        have hd : d = e := hseed (by decide : seedWord 4#3 = 0x00000041#32)
        rw [hd]
      · rw [perform_seedWord_of_ne_four hn, perform_seedWord_of_ne_four hn]
    · rw [perform_of_decode (decode_nextWord d), perform_of_decode (decode_nextWord e)]
    · rw [perform_of_decode (decode_nextfWord d), perform_of_decode (decode_nextfWord e)]
    · obtain ⟨ho, -⟩ := rotlWord_fields k
      have hx : dataWord d 0 = dataWord e 0 := hrotl ho
      rw [perform_of_decode (decode_rotlWord k d), perform_of_decode (decode_rotlWord k e), hx]
    · rw [perform_of_decode (decode_rdregWord hr d), perform_of_decode (decode_rdregWord hr e)]

/-- Settles O1: ten words, each decoded as it stands. -/
theorem tableWordsDecodeAsTheSpecSays : Obligations.TableWordsDecodeAsTheSpecSays := by
  unfold Obligations.TableWordsDecodeAsTheSpecSays
  decide

/-! ## The assembler's lines (R72, R73) -/

/-- The count of at most seven operands fits its field. -/
theorem seedWord_ofNat {n : Nat} (h : n ≤ 7) : seedWord (BitVec.ofNat 3 n) = 0x1#32 ||| BitVec.ofNat 32 n <<< 4 := by
  have hn : (BitVec.ofNat 3 n).setWidth 32 = BitVec.ofNat 32 n := by
    apply BitVec.eq_of_toNat_eq
    simp
    omega
  rw [seedWord, hn]

/-- Settles O6: each line's words are the encoder's, and the data bus carries its operands. -/
theorem assemblerLinesGiveTheirCommands : Obligations.AssemblerLinesGiveTheirCommands := by
  refine ⟨fun ws hlen => ?_, fun x k => ⟨dataBus x 0 0 0, rfl, dataWord_dataBus_0 x 0 0 0⟩, fun _ => rfl,
    fun _ => rfl, fun _ => rfl⟩
  refine ⟨dataBus (ws.getD 0 0) (ws.getD 1 0) (ws.getD 2 0) (ws.getD 3 0), by rw [← seedWord_ofNat hlen]; rfl, ?_⟩
  intro i hi w hw
  have hget : ws.getD i 0 = w := by simp [List.getD, hw]
  subst hget
  match i, hi with
  | 0, _ => exact dataWord_dataBus_0 _ _ _ _
  | 1, _ => exact dataWord_dataBus_1 _ _ _ _
  | 2, _ => exact dataWord_dataBus_2 _ _ _ _
  | 3, _ => exact dataWord_dataBus_3 _ _ _ _

end Sys2Proof.Machine
end

section
/-! PROOFS. The edges of the port (R69–R71, R230): what each kind of edge transfers, and the count of commands and
responses in a run. -/

namespace Sys2Proof.Machine

/-! ## A broken handshake (R70, U7) -/

/-- The host breaks its hold when it withdraws or changes what it was offering. -/
theorem holdKept_eq_false_iff (s : State) (p : PortIn) :
    s.holdKept p = false ↔ ∃ c, s.offer = some c ∧ (p.cmdValid = false ∨ p.cmd ≠ c) := by
  unfold State.holdKept
  cases s.offer with
  | none => simp
  | some c => cases p.cmdValid <;> simp

theorem perform_ne_refused (c : Command) (s : State) (r : Refusal) : perform c s ≠ .refused r := by
  obtain ⟨t, ht, -⟩ := perform_effect c s
  simp [ht]

/-- Settles O50: of the four kinds of edge only a broken handshake is refused. -/
theorem onlyABrokenHandshakeIsRefused : Obligations.OnlyABrokenHandshakeIsRefused := by
  intro s r
  rw [← holdKept_eq_false_iff]
  rcases step_cases s with ⟨hr, -, h⟩ | ⟨hr, hk, h⟩ | ⟨-, hk, -, -, -, h⟩ | ⟨-, hk, -, -, h⟩ <;> rw [h]
  · simp [hr]
  · simp [hr, hk, eq_comm]
  · simp [hk, perform_ne_refused]
  · simp [hk]

/-! ## Reset and the transfer of a command -/

/-- Settles O43: the step performs the command on the block as `beginCommand` leaves it. -/
theorem stepRunsThePresentedCommand : Obligations.StepRunsThePresentedCommand := by
  intro s c h
  have hs : step s = perform c (beginCommand s.advance) := step_of_presents h
  exact ⟨fun i hi => hs.trans (perform_of_decode hi _), hs⟩

theorem step_of_reset {s : State} (h : s.drive.rst = true) : step s = .next (resetBlock s.advance) := by
  simp [step, clockEdge, h]

/-- Settles O45: the block after a reset edge is `resetBlock`, which does not read the generator. -/
theorem resetEdgeClearsTheBlock : Obligations.ResetEdgeClearsTheBlock := by
  intro s h
  have hwithGen : ∀ g, step { s with gen := g } = .next (resetBlock s.advance) :=
    fun g => step_of_reset (s := { s with gen := g }) h
  refine ⟨?_, ?_, ?_, ?_, _, step_of_reset h, rfl, rfl, rfl, rfl, rfl, rfl, rfl, rfl, hwithGen⟩
  · simp [State.outputs, State.cmdReady]
  · simp [State.outputs, State.rspValid]
  · simp [State.accepting, h]
  · simp [State.delivering, h]

/-! ## The transfer of a response -/

section
variable {s : State} (hr : s.drive.rst = false) (hk : s.holdKept s.drive = true) (ha : s.accepting = none)
include hr hk ha

/-- The response that waits is taken at an edge at which the host is ready for it and transfers no command (R70). -/
theorem delivering_of_ready (hv : s.rspValid s.drive.rst = true) (hy : s.drive.rspReady = true) :
    s.delivering = s.rsp := by
  simp [State.delivering, ha, hr, hk, hr ▸ hv, hy]

theorem delivering_of_not_ready (h : (s.rspValid s.drive.rst && s.drive.rspReady) = false) : s.delivering = none := by
  simp only [hr] at h
  simp [State.delivering, ha, hr, hk, h]

end

/-- Settles O48: the busy block transfers no command, so the edge is a `release`. -/
theorem takingTheResponseFreesTheBlock : Obligations.TakingTheResponseFreesTheBlock := by
  intro s r hb hrsp hrst hready hk
  have hv : s.rspValid s.drive.rst = true := by simp [State.rspValid, hrsp, hrst]
  have ha : s.accepting = none := by simp [State.accepting, State.cmdReady, hb]
  refine ⟨(delivering_of_ready hrst hk ha hv hready).trans hrsp, ?_⟩
  have hset : settle s.drive s.advance = release s.advance := if_pos (Bool.and_eq_true_iff.2 ⟨hv, hready⟩)
  rcases step_cases s with ⟨h, -⟩ | ⟨-, h, -⟩ | ⟨-, -, -, h, -⟩ | ⟨-, -, -, -, h⟩
  · simp [hrst] at h
  · simp [hk] at h
  · simp [hb] at h
  · rw [h, hset]; rfl

/-! ## Commands accepted and responses taken (R67, R71) -/

@[simp] theorem settle_pins (p : PortIn) (s : State) : (settle p s).pins = s.pins := by
  rcases settle_cases p s with ⟨-, -, h⟩ | ⟨-, -, h⟩ | ⟨-, -, h⟩ <;> simp [h]

/-- Every step consumes the host's inputs of one edge. -/
theorem step_pins {s t : State} (h : step s = .next t) : t.pins = s.pins.tail := by
  rcases step_cases s with ⟨-, -, hs⟩ | ⟨-, -, hs⟩ | ⟨-, -, -, -, -, hs⟩ | ⟨-, -, -, -, hs⟩ <;> rw [hs] at h
  · obtain rfl := Host.Outcome.next.inj h; rfl
  · cases h
  · obtain ⟨-, -, hp, -⟩ := perform_frame h
    exact hp
  · obtain rfl := Host.Outcome.next.inj h; simp

/-- At the edges to come that `pins` does not give, the host does not reset. -/
theorem NoReset.drive_rst {n : Nat} {s : State} (h : NoReset (n + 1) s) : s.drive.rst = false := by
  cases hp : s.pins with
  | cons p ps => rw [drive_of_cons hp]; exact h p (by simp [hp])
  | nil =>
    simp only [State.drive, hp, List.headD_nil, State.holding]
    split <;> rfl

theorem NoReset.tail {n : Nat} {s t : State} (h : NoReset (n + 1) s) (ht : t.pins = s.pins.tail) : NoReset n t := by
  have htake : (s.pins.take (n + 1)).tail = t.pins.take n := by simp [List.tail_take_eq_take_tail, ht]
  exact fun p hp => h p (List.mem_of_mem_tail (htake ▸ hp))

/-- A transferred command makes the block busy, and a transferred response frees it. -/
theorem step_inProgress {s t : State} (hinv : BlockInv s) (hrst : s.drive.rst = false) (h : step s = .next t) :
    s.accepting.toList.length + inProgress s = s.delivering.toList.length + inProgress t := by
  rcases step_cases s with ⟨hr, -⟩ | ⟨-, -, hs⟩ | ⟨hr, hk, hv, hb, ha, hs⟩ | ⟨hr, hk, -, ha, hs⟩
  · simp [hrst] at hr
  · simp [hs] at h
  · have hd : s.delivering = none := delivering_of_presents ⟨hb, hr, hv, rfl, hk⟩
    obtain ⟨hbt, -⟩ := perform_frame (hs.symm.trans h)
    simp [ha, hd, inProgress, hb, hbt]
  · obtain rfl := Host.Outcome.next.inj (hs.symm.trans h)
    rcases settle_cases s.drive s.advance with ⟨hv, hy, e⟩ | ⟨hn, -, e⟩ | ⟨hn, -, e⟩
    · have hd : s.delivering = s.rsp := delivering_of_ready hr hk ha hv hy
      have hsome : s.rsp.isSome = true := (Bool.and_eq_true_iff.1 hv).1
      obtain ⟨r, hrsp⟩ := Option.isSome_iff_exists.1 hsome
      have hb : s.busy = true := by
        by_contra hb
        simp [hinv.idleEmpty (Bool.eq_false_of_not_eq_true hb)] at hrsp
      simp [ha, hd, hrsp, e, inProgress, hb]
    · have hd : s.delivering = none := delivering_of_not_ready hr hk ha hn
      simp [ha, hd, e, inProgress]
    · have hd : s.delivering = none := delivering_of_not_ready hr hk ha hn
      simp [ha, hd, e, inProgress]

/-- Settles O58, by induction on the number of steps. -/
theorem eachAcceptedCommandGetsOneResponse : Obligations.EachAcceptedCommandGetsOneResponse := by
  intro n
  induction n with
  | zero =>
    intro s t _ _ h
    cases h
    rfl
  | succ n ih =>
    intro s t hinv hnr h
    obtain ⟨u, hu, hrun⟩ := run_succ_next h
    have hstep := step_inProgress hinv hnr.drive_rst hu
    have hrest := ih u t (everyStepKeepsTheInvariant s u hinv hu) (hnr.tail (step_pins hu)) hrun
    simp only [accepted, delivered, hu, List.length_append]
    omega

end Sys2Proof.Machine
end

section
/-! PROOFS. The rotator by its bits (R90, R93), and the command ROTL (R92). -/

namespace Sys2Proof.Machine

/-! ## The rotator (R90, R91, R93) -/

/-- R90: bit `j` of the result is bit `(j - k) mod 64` of the operand; for the amount 0 it is bit `j` (R91). -/
theorem getLsbD_rotl64 (x : Word) {k j : Nat} (hk : k < 64) (hj : j < 64) :
    (rotl64 x k).getLsbD j = x.getLsbD ((j + (64 - k)) % 64) := by
  rw [rotl64_eq_rotateLeft x k hk, BitVec.getLsbD_rotateLeft, Nat.mod_eq_of_lt hk]
  by_cases hjk : j < k
  · have hidx : (j + (64 - k)) % 64 = 64 - k + j := by omega
    simp [hjk, hidx]
  · have hidx : (j + (64 - k)) % 64 = j - k := by omega
    simp [hjk, hj, hidx]

/-- Settles O7: the mask of R90 is all ones on 64 bits, and the bits are those of `getLsbD_rotl64`. -/
theorem rotateMovesEveryBitByK : Obligations.RotateMovesEveryBitByK := by
  intro x k _ hk
  have hmask : 0xFFFFFFFFFFFFFFFF#64 = BitVec.allOnes 64 := rfl
  refine ⟨?_, fun j hj => getLsbD_rotl64 x (by omega) hj⟩
  rw [hmask, BitVec.and_allOnes, rotl64]

/-- R93: rotations compose, their amounts added modulo 64. -/
theorem rotl64_rotl64 (x : Word) {a b : Nat} (ha : a < 64) (hb : b < 64) :
    rotl64 (rotl64 x a) b = rotl64 x ((a + b) % 64) := by
  apply BitVec.eq_of_getLsbD_eq
  intro j hj
  have hidx : ((j + (64 - b)) % 64 + (64 - a)) % 64 = (j + (64 - (a + b) % 64)) % 64 := by omega
  rw [getLsbD_rotl64 _ hb hj, getLsbD_rotl64 x ha (Nat.mod_lt _ (by decide)),
    getLsbD_rotl64 x (Nat.mod_lt _ (by decide)) hj, hidx]

/-- Settles O8: the inverse law is the composition law for amounts that add up to 64. -/
theorem rotationsInvertAndCompose : Obligations.RotationsInvertAndCompose := by
  refine ⟨fun x k h1 hk => ?_, fun x a b ha hb => rotl64_rotl64 x (by omega) (by omega), rotl64_zero⟩
  have hsum : (k + (64 - k)) % 64 = 0 := by omega
  rw [rotl64_rotl64 x (by omega) (by omega), hsum, rotl64_zero]

/-- A word whose bits are all equal is fixed by every amount. -/
theorem rotl64_of_equal_bits {x : Word} {b : Bool} (hx : ∀ i, i < 64 → x.getLsbD i = b) {k : Nat} (hk : k < 64) :
    rotl64 x k = x := by
  apply BitVec.eq_of_getLsbD_eq
  intro j hj
  rw [getLsbD_rotl64 x hk hj, hx _ (Nat.mod_lt _ (by decide)), hx j hj]

/-! ## The command ROTL (R92) -/

/-- Settles O9: past the check of FAULTED, ROTL only responds. -/
theorem rotlAnswersTheRotatedWord : Obligations.RotlAnswersTheRotatedWord :=
  fun _ _ _ hf => congrArg _ (unlessFaulted_of_not hf)

/-- A legal word with the `OP` of ROTL decodes to ROTL (R63, R66). -/
theorem decode_rotl_of_legal {c : Command} (ho : opField c.word = 0x4#4) (hl : legal c.word = true) :
    decode c = .instr (.rotl (argField c.word) (dataWord c.data 0)) := by
  have hfields : reservedZero c.word = true ∧ countField c.word = 0#3 := by simpa [legal, ho] using hl
  obtain ⟨hr, hn⟩ := hfields
  rw [decode_rotl ho]
  exact checked_eq_instr.2 ⟨hr, .inr hn, .inl rfl, rfl⟩

/-- Settles O10: the pseudocode of R92 by its two checks, then the corner cases by the laws of the rotator. -/
theorem rotlCommandFollowsItsRule : Obligations.RotlCommandFollowsItsRule := by
  refine ⟨fun c s ho => ?_, fun x => ⟨rotl64_zero x, BitVec.or_comm _ _⟩, fun k hk => ⟨?_, ?_⟩⟩
  · split_ifs with hf hl
    · exact perform_of_faulted c hf
    · have hs : s.faulted = false := Bool.eq_false_of_not_eq_true hf
      exact (perform_of_not_legal hl c.data s).trans (congrArg _ (unlessFaulted_of_not hs))
    · have hd := decode_rotl_of_legal ho (Bool.eq_true_of_not_eq_false hl)
      rw [perform_of_decode hd, rotlAnswersTheRotatedWord _ _ s (Bool.eq_false_of_not_eq_true hf)]
  · exact rotl64_of_equal_bits (b := false) (by decide) (by omega)
  · exact rotl64_of_equal_bits (b := true) (by decide) (by omega)

end Sys2Proof.Machine
end

section
/-! PROOFS. The command SEED (R100–R103), and the first draw after it. -/

namespace Sys2Proof.Machine

/-! ## The command SEED (R100–R102) -/

/-- Settles O11: past the check of FAULTED, SEED of four words constructs its generator and responds. -/
theorem seedOfFourWordsConstructsAGenerator : Obligations.SeedOfFourWordsConstructsAGenerator :=
  fun _ _ _ _ _ hf => congrArg _ (unlessFaulted_of_not hf)

/-- Settles O12: past the check of FAULTED, SEED of another count raises InvalidSeed. -/
theorem seedOfAnyOtherCountIsInvalid : Obligations.SeedOfAnyOtherCountIsInvalid :=
  fun _ d0 d1 d2 d3 s hn hf => (execSeed_of_ne_four hn d0 d1 d2 d3 s).trans (congrArg _ (unlessFaulted_of_not hf))

/-- Settles O14: the construction writes every field in which the two states differ. -/
theorem seedReplacesTheWholeGenerator : Obligations.SeedReplacesTheWholeGenerator := by
  intro d0 d1 d2 d3 s g b hf
  have hother := seedOfFourWordsConstructsAGenerator d0 d1 d2 d3 { s with gen := g, seeded := b } hf
  exact ⟨hother.trans (seedOfFourWordsConstructsAGenerator d0 d1 d2 d3 s hf).symm, hother⟩

/-- A legal word with the `OP` of SEED decodes to SEED, whatever its count is (R62, R66). -/
theorem decode_seed_of_legal {c : Command} (ho : opField c.word = 0x1#4) (hl : legal c.word = true) :
    decode c = .instr (.seed (countField c.word) (dataWord c.data 0) (dataWord c.data 1) (dataWord c.data 2)
      (dataWord c.data 3)) := by
  have hfields : reservedZero c.word = true ∧ argField c.word = 0#6 := by simpa [legal, ho] using hl
  obtain ⟨hr, ha⟩ := hfields
  rw [decode_seed ho]
  exact checked_eq_instr.2 ⟨hr, .inl rfl, .inr ha, rfl⟩

/-- Settles O13: the pseudocode of R100 by its three checks, in their order. -/
theorem seedCommandFollowsItsRule : Obligations.SeedCommandFollowsItsRule := by
  intro c s ho
  by_cases hf : s.faulted = true
  · rw [if_pos hf, perform_of_faulted c hf]
    rfl
  have hs : s.faulted = false := Bool.eq_false_of_not_eq_true hf
  by_cases hl : legal c.word = false
  · rw [if_neg hf, if_pos hl]
    exact (perform_of_not_legal hl c.data s).trans (congrArg _ (unlessFaulted_of_not hs))
  rw [if_neg hf, if_neg hl, perform_of_decode (decode_seed_of_legal ho (Bool.eq_true_of_not_eq_false hl))]
  by_cases hn : countField c.word = 4#3
  · rw [if_neg (not_not.2 hn), hn, seedOfFourWordsConstructsAGenerator _ _ _ _ s hs]
  · rw [if_pos hn, seedOfAnyOtherCountIsInvalid _ _ _ _ _ s hn hs]

/-! ## The first draw after a SEED (R103) -/

/-- R140, R145: with the countdown at 0 a draw reseeds first, and its result and its update read the reseeded words. -/
theorem draw_of_cnt_zero {g : Generator} (h : g.cnt = 0#11) :
    g.draw = ((reseed g.words).scramble, ⟨(reseed g.words).update, reseedReload, g.ndraw + 1⟩) := by
  rw [Generator.draw, countdown_of_zero h]

/-- R103: the first draw of the generator that a SEED constructs. -/
theorem draw_ofSeed (d0 d1 d2 d3 : Word) :
    (Generator.ofSeed d0 d1 d2 d3).draw =
      ((reseed ⟨d0, d1, d2, d3⟩).scramble, ⟨(reseed ⟨d0, d1, d2, d3⟩).update, reseedReload, 1#64⟩) :=
  draw_of_cnt_zero rfl

/-- NEXT of a block with a generator and without a fault (R144). -/
theorem exec_next_of_seeded {s : State} (hf : s.faulted = false) (hs : s.seeded = true) :
    exec .next s = .next (respond statusOk s.gen.draw.1 { s with gen := s.gen.draw.2 }) :=
  congrArg _ ((unlessFaulted_of_not hf).trans (requireSeeded_of_seeded hs))

/-- NEXTF of a block with a generator and without a fault makes its first micro-step (R163). -/
theorem exec_nextf_of_seeded {s : State} (hf : s.faulted = false) (hs : s.seeded = true) :
    exec .nextf s = .next (nextfMicroStep { s with nfTries := 0, rsp := none }) :=
  congrArg _ ((unlessFaulted_of_not hf).trans (requireSeeded_of_seeded hs))

/-- A micro-step whose draw is finite answers it (R163). -/
theorem nextfMicroStep_rsp_of_finite {s : State} (h : isFinite64 s.gen.draw.1 = true) :
    (nextfMicroStep s).rsp = some ⟨statusOk, s.gen.draw.1⟩ := by
  rcases nextfMicroStep_cases s with ⟨-, he⟩ | ⟨hn, -⟩ | ⟨hn, -⟩
  · rw [he, respond_rsp]
  · simp [h] at hn
  · simp [h] at hn

/-- Settles O15: the draw is that of `draw_ofSeed`, NEXT answers it, and NEXTF's first micro-step tests it. -/
theorem firstDrawAfterSeedReadsTheReseededState : Obligations.FirstDrawAfterSeedReadsTheReseededState := by
  intro d0 d1 d2 d3 s hf w result
  have hdraw := draw_ofSeed d0 d1 d2 d3
  have hresult : (Generator.ofSeed d0 d1 d2 d3).draw.1 = result := congrArg Prod.fst hdraw
  have hanswer : some (Response.mk statusOk (Generator.ofSeed d0 d1 d2 d3).draw.1) = some ⟨0#4, result⟩ := by
    rw [hresult]; rfl
  refine ⟨_, seedOfFourWordsConstructsAGenerator d0 d1 d2 d3 s hf, hresult, congrArg (·.2.cnt) hdraw,
    congrArg (·.2.ndraw) hdraw, ⟨_, exec_next_of_seeded hf rfl, hanswer, rfl⟩, _, exec_nextf_of_seeded hf rfl,
    nextfMicroStep_gen _, fun hfinite => ?_⟩
  exact (nextfMicroStep_rsp_of_finite (hresult.symm ▸ hfinite)).trans hanswer

end Sys2Proof.Machine
end

section
/-! PROOFS. The message schedule (R114). -/

namespace Sys2Proof.Machine

@[simp] theorem length_shaExtend (n : Nat) (w : List U32) : (shaExtend n w).length = n + w.length := by
  induction n generalizing w with
  | zero => simp [shaExtend]
  | succ n ih => simp only [shaExtend, ih, List.length_cons]; omega

theorem shaExtend_add (m n : Nat) (w : List U32) : shaExtend (m + n) w = shaExtend n (shaExtend m w) := by
  induction m generalizing w with
  | zero => simp [shaExtend]
  | succ m ih => rw [Nat.succ_add, shaExtend, ih, shaExtend]

theorem shaExtend_succ_last (n : Nat) (w : List U32) :
    shaExtend (n + 1) w = shaNextWord (shaExtend n w) :: shaExtend n w := shaExtend_add n 1 w

/-- Extending puts new words in front and keeps the old ones. -/
theorem suffix_shaExtend (n : Nat) (w : List U32) : w <:+ shaExtend n w := by
  induction n with
  | zero => exact List.suffix_rfl
  | succ n ih => exact shaExtend_succ_last n w ▸ ih.trans (List.suffix_cons _ _)

/-- The words known after `n` extensions, oldest first, are where the schedule begins. -/
theorem reverse_shaExtend_prefix (block : List U32) {n : Nat} (hn : n ≤ 48) :
    (shaExtend n block.reverse).reverse <+: shaSchedule block := by
  obtain ⟨k, hk⟩ := Nat.exists_eq_add_of_le hn
  rw [shaSchedule, hk, shaExtend_add]
  exact List.reverse_prefix.2 (suffix_shaExtend k _)

/-- The schedule begins with the block (R114). -/
theorem prefix_shaSchedule (block : List U32) : block <+: shaSchedule block := by
  simpa [shaExtend] using reverse_shaExtend_prefix block (Nat.zero_le 48)

/-- Place `k` of a list kept newest first, in the same list read oldest first. -/
theorem getD_of_reverse_prefix {v l : List U32} (h : v.reverse <+: l) {k : Nat} (hk : k < v.length) :
    l.getD (v.length - 1 - k) 0 = v.getD k 0 := by
  obtain ⟨rest, rfl⟩ := h
  rw [List.getD_append _ _ _ _ (by simp; omega), List.getD_reverse _ (by omega)]
  congr 1
  omega

/-- Where a list begins with the words `v`, newest first, and then their next word, that word follows R114's recurrence:
`W[t-k]` stands at place `k` of the words and the next one. -/
theorem getD_length_of_next_prefix {v l : List U32} (h : (shaNextWord v :: v).reverse <+: l) (hv : 16 ≤ v.length) :
    l.getD v.length 0 =
      shaSmallSigma1 (l.getD (v.length - 2) 0) + l.getD (v.length - 7) 0
      + shaSmallSigma0 (l.getD (v.length - 15) 0) + l.getD (v.length - 16) 0 := by
  have hback (k : Nat) (hk : k ≤ 16) : l.getD (v.length - k) 0 = (shaNextWord v :: v).getD k 0 :=
    getD_of_reverse_prefix h (by simp; omega)
  rw [hback 2 (by decide), hback 7 (by decide), hback 15 (by decide), hback 16 (by decide)]
  exact hback 0 (by decide)

/-- Settles O18: the schedule begins with the block, and with the `t` words before `t` and then their next word. -/
theorem scheduleFollowsItsRecurrence : Obligations.ScheduleFollowsItsRecurrence := by
  intro block hlen
  refine ⟨by simp [shaSchedule, hlen], fun t ht => ?_, fun t h16 h64 => ?_⟩
  · obtain ⟨rest, hrest⟩ := prefix_shaSchedule block
    rw [← hrest, List.getD_append _ _ _ _ (hlen ▸ ht)]
  · have hprefix := reverse_shaExtend_prefix block (n := t - 16 + 1) (by omega)
    rw [shaExtend_succ_last] at hprefix
    have hv : (shaExtend (t - 16) block.reverse).length = t := by
      simp only [length_shaExtend, List.length_reverse, hlen]
      omega
    simpa only [hv] using getD_length_of_next_prefix hprefix (hv.symm ▸ h16)

end Sys2Proof.Machine
end

section
/-! PROOFS. The reseed through 32-bit words (R113, R119). -/

namespace Sys2Proof.Machine

/-! ## Bytes and 32-bit words (R10, R113) -/

/-- The four bytes of a 32-bit word are read as that word. -/
@[simp] theorem u32sBE_be4 (x : U32) (rest : List Byte) : u32sBE (be4 x ++ rest) = x :: u32sBE rest := by
  have hbytes : x.extractLsb' 24 8 ++ x.extractLsb' 16 8 ++ x.extractLsb' 8 8 ++ x.extractLsb' 0 8 = x := by
    rw [BitVec.extractLsb'_append_extractLsb'_eq_extractLsb' (show 24 = 16 + 8 from rfl),
      BitVec.extractLsb'_append_extractLsb'_eq_extractLsb' (show 16 = 8 + 8 from rfl)]
    exact BitVec.extractLsb'_append_extractLsb'
  exact congrArg (· :: _) hbytes

/-- The bytes of two 32-bit words are those of the state word that they make up. -/
theorem be8_append (a b : U32) : be8 (a ++ b) = be4 a ++ be4 b := by
  have hhigh (n : Nat) : (a ++ b : Word).extractLsb' (32 + n) 8 = a.extractLsb' n 8 := by
    simpa using BitVec.extractLsb'_append_eq_of_le (xhi := a) (xlo := b) (len := 8) (Nat.le_add_right 32 n)
  have hlow (n : Nat) (hn : n + 8 ≤ 32) : (a ++ b : Word).extractLsb' n 8 = b.extractLsb' n 8 :=
    BitVec.extractLsb'_append_eq_of_add_le hn
  rw [be4, be4, ← hhigh 24, ← hhigh 16, ← hhigh 8, ← hhigh 0, ← hlow 24 (by decide), ← hlow 16 (by decide),
    ← hlow 8 (by decide), ← hlow 0 (by decide)]
  rfl

/-- The bytes of a state word are those of its high half, then those of its low half. -/
theorem be8_eq_be4_append_be4 (w : Word) : be8 w = be4 (w.extractLsb' 32 32) ++ be4 (w.extractLsb' 0 32) := by
  rw [← be8_append, BitVec.extractLsb'_append_extractLsb']

theorem u32sBE_be8 (w : Word) (rest : List Byte) :
    u32sBE (be8 w ++ rest) = w.extractLsb' 32 32 :: w.extractLsb' 0 32 :: u32sBE rest := by
  rw [be8_eq_be4_append_be4, List.append_assoc, u32sBE_be4, u32sBE_be4]

/-! ## The digest (R119) -/

/-- The eight words of a hash in pairs, each a state word with the first of the pair in its high half (R119). -/
def Sha8.toWords (h : Sha8) : Words := ⟨h.a ++ h.b, h.c ++ h.d, h.e ++ h.f, h.g ++ h.h⟩

/-- R119's form of a state word: the first word of its pair, shifted up, joined with the second. -/
theorem append_eq_shiftLeft_or (a b : U32) : (a ++ b : Word) = (a.setWidth 64 <<< 32) ||| b.setWidth 64 :=
  (BitVec.setWidth_eq _).symm.trans BitVec.setWidth_append_eq_shiftLeft_setWidth_or

theorem Sha8.bytes_toWords (h : Sha8) :
    h.toWords.bytes = be4 h.a ++ be4 h.b ++ be4 h.c ++ be4 h.d ++ be4 h.e ++ be4 h.f ++ be4 h.g ++ be4 h.h := by
  simp only [Words.bytes, Sha8.toWords, be8_append, List.append_assoc]

/-- The digest is the bytes of the hash, taken as four words. -/
theorem sha256_eq_bytes (msg : List Byte) : sha256 msg = (shaCompress (u32sBE (shaPad msg))).toWords.bytes :=
  (Sha8.bytes_toWords _).symm

theorem reseed_eq_toWords (w : Words) : reseed w = (shaCompress (u32sBE (shaPad w.bytes))).toWords := by
  rw [reseed, hash256, sha256_eq_bytes, Words.ofBytes_bytes]

/-- Settles O17: the message is read by halves of its words, then the padding; the digest is the hash's words as bytes. -/
theorem reseedThroughBytesIsReseedThroughWords : Obligations.ReseedThroughBytesIsReseedThroughWords := by
  intro w block h
  have hblock : u32sBE (shaPad w.bytes) = block := by
    simp only [shaPad, Words.bytes, List.append_assoc, u32sBE_be8]
    rfl
  refine ⟨hblock, ?_, ?_⟩
  · rw [sha256_eq_bytes, hblock, Sha8.bytes_toWords]
  · rw [reseed_eq_toWords, hblock, Sha8.toWords]
    simp only [append_eq_shiftLeft_or, h]

end Sys2Proof.Machine
end

section
/-! PROOFS. The draws at which a fresh generator reseeds (R121). -/

namespace Sys2Proof.Machine

/-- The countdown goes through 1001 values: each draw takes one from it modulo 1001, a draw that reseeds too. -/
theorem draw_cnt_mod {g : Generator} (h : g.cnt.toNat ≤ 1000) :
    (g.draw.2.cnt.toNat + 1) % 1001 = g.cnt.toNat % 1001 := by
  rw [draw_cnt]
  by_cases h0 : g.cnt = 0#11
  · rw [countdown_of_zero h0, h0]
    exact (by decide : (reseedReload.toNat + 1) % 1001 = (0#11).toNat % 1001)
  · rw [countdown_of_ne_zero h0]
    have hsub : (g.cnt - 1#11).toNat + 1 = g.cnt.toNat := by bv_omega
    exact congrArg (· % 1001) hsub

/-- After any number of draws the countdown is in range (R23). -/
theorem after_cnt_le (n : Nat) {g : Generator} (h : g.cnt.toNat ≤ 1000) : (g.after n).cnt.toNat ≤ 1000 := by
  induction n generalizing g with
  | zero => exact h
  | succ n ih => exact ih (draw_cnt_le g h)

theorem after_cnt_mod (n : Nat) {g : Generator} (h : g.cnt.toNat ≤ 1000) :
    ((g.after n).cnt.toNat + n) % 1001 = g.cnt.toNat % 1001 := by
  induction n generalizing g with
  | zero => rfl
  | succ n ih =>
    have hrest := ih (draw_cnt_le g h)
    have hdraw := draw_cnt_mod h
    rw [after_succ]
    omega

/-- A generator whose countdown is 0 has after `n` draws the value in 0..1000 that makes `n` a multiple of 1001. -/
theorem after_cnt_toNat_of_zero (n : Nat) {g : Generator} (h : g.cnt = 0#11) :
    (g.after n).cnt.toNat = (1001 - n % 1001) % 1001 := by
  have hz : g.cnt.toNat = 0 := congrArg BitVec.toNat h
  have hle := after_cnt_le n (hz.trans_le (Nat.zero_le 1000))
  have hmod := after_cnt_mod n (hz.trans_le (Nat.zero_le 1000))
  omega

/-- Settles O19, by the countdown of a fresh generator after `n` draws: it is 0 exactly when 1001 divides `n`. -/
theorem reseedsEvery1001Draws : Obligations.ReseedsEvery1001Draws := by
  intro d0 d1 d2 d3 g
  have hcnt (n : Nat) : (g.after n).cnt.toNat = (1001 - n % 1001) % 1001 := after_cnt_toNat_of_zero n rfl
  have hzero (n : Nat) : (g.after n).cnt = 0#11 ↔ n % 1001 = 0 := by
    rw [← BitVec.toNat_inj, hcnt, BitVec.toNat_ofNat]
    omega
  refine ⟨fun m j hj => ?_, fun n hn => ?_, fun n hn => ?_⟩
  · have hj' : (g.after (1 + 1001 * m + j)).cnt.toNat = 1000 - j := by
      rw [hcnt]
      omega
    rw [← hj', BitVec.ofNat_toNat, BitVec.setWidth_eq]
  · rw [countdown_of_zero ((hzero n).2 hn)]
  · rw [countdown_of_ne_zero (mt (hzero n).1 hn)]

end Sys2Proof.Machine
end

section
/-! PROOFS. The draw by its equations (R140–R143, R146), and that its update loses nothing. -/

namespace Sys2Proof.Machine

/-! ## The equations of a draw (R140–R142) -/

/-- R140: away from 0 a draw only takes one from the countdown; its result and its update read the words as they stand. -/
theorem draw_of_cnt_ne_zero {g : Generator} (h : g.cnt ≠ 0#11) :
    g.draw = (g.words.scramble, ⟨g.words.update, g.cnt - 1#11, g.ndraw + 1⟩) := by
  rw [Generator.draw, countdown_of_ne_zero h]

/-- R142: the update's words as simultaneous equations on the old ones. -/
theorem Words.update_eq (w : Words) :
    w.update = ⟨w.s0 ^^^ w.s3 ^^^ w.s1, w.s1 ^^^ w.s2 ^^^ w.s0, w.s2 ^^^ w.s0 ^^^ (w.s1 <<< 17),
      rotl64 (w.s3 ^^^ w.s1) 45⟩ := by
  rw [BitVec.xor_assoc w.s0, BitVec.xor_assoc w.s1]
  rfl

/-- Settles O20: by the two cases of the countdown, with the update in the form of R142. -/
theorem drawFollowsItsEquations : Obligations.DrawFollowsItsEquations := by
  intro g
  by_cases h : g.cnt = 0#11
  · simp [draw_of_cnt_zero h, h, Words.update_eq, Words.scramble, rotOut, reseedReload]
  · simp [draw_of_cnt_ne_zero h, h, Words.update_eq, Words.scramble, rotOut]

/-! ## The draws counted (R143) -/

/-- Settles O21, by induction on the number of draws. -/
theorem everyDrawIsCounted : Obligations.EveryDrawIsCounted := by
  intro n g
  induction n generalizing g with
  | zero => simp
  | succ n ih =>
    rw [after_succ, ih, draw_ndraw, BitVec.ofNat_add, BitVec.add_assoc, BitVec.add_comm 1]
    rfl

/-! ## The all-zero state (R146) -/

/-- R146: a draw of the all-zero words that does not reseed. -/
theorem draw_of_words_zero {g : Generator} (hw : g.words = ⟨0, 0, 0, 0⟩) (h : g.cnt ≠ 0#11) :
    g.draw = (0, ⟨⟨0, 0, 0, 0⟩, g.cnt - 1#11, g.ndraw + 1⟩) := by
  have hresult : Words.scramble ⟨0, 0, 0, 0⟩ = 0 := by decide
  have hupdate : Words.update ⟨0, 0, 0, 0⟩ = ⟨0, 0, 0, 0⟩ := by decide
  rw [draw_of_cnt_ne_zero h, hw, hresult, hupdate]

/-- Settles O22, by induction on the number of draws: each takes one from the countdown and leaves the words all zero. -/
theorem allZeroStateStaysUntilAReseed : Obligations.AllZeroStateStaysUntilAReseed := by
  intro n
  induction n with
  | zero =>
    intro g hw hn
    have h0 : g.cnt ≠ 0#11 := by bv_omega
    rw [word_zero, after_succ, draw_of_words_zero hw h0]
    exact ⟨rfl, rfl⟩
  | succ n ih =>
    intro g hw hn
    have h0 : g.cnt ≠ 0#11 := by bv_omega
    have hcnt : n < (g.cnt - 1#11).toNat := by bv_omega
    rw [word_succ, after_succ, draw_of_words_zero hw h0]
    exact ih _ rfl hcnt

/-! ## The update is injective (R142) -/

theorem rotl64_injective {k : Nat} (h1 : 1 ≤ k) (hk : k ≤ 63) : Function.Injective (rotl64 · k) := by
  obtain ⟨hinv, -⟩ := rotationsInvertAndCompose
  exact Function.LeftInverse.injective (g := (rotl64 · (64 - k))) fun x => hinv x k h1 hk

/-- A word joined with itself shifted left gives back the word: from the lowest bit up, each bit is given by the ones
below it. -/
theorem xor_shiftLeft_injective : Function.Injective fun x : Word => x ^^^ (x <<< 17) := by
  intro x y h
  have hbits (i : Nat) : x.getLsbD i = y.getLsbD i := by
    induction i using Nat.strong_induction_on with
    | h i ih =>
      have hi := congrArg (BitVec.getLsbD · i) h
      by_cases h17 : i < 17
      · simpa [h17] using hi
      · simpa [h17, ih (i - 17) (by omega)] using hi
  exact BitVec.eq_of_getLsbD_eq fun i _ => hbits i

theorem xor_xor_cancel_middle (x y z : Word) : (x ^^^ y) ^^^ (y ^^^ z) = x ^^^ z := by
  rw [← BitVec.xor_assoc, BitVec.xor_assoc x y y, BitVec.xor_self, BitVec.xor_zero]

/-- Settles O23: the four equations give back first `s3 ^^^ s1`, then `s0`, `s1`, and the other two. -/
theorem updateIsInjective : Obligations.UpdateIsInjective := by
  intro v w h
  obtain ⟨a0, a1, a2, a3⟩ := v
  obtain ⟨b0, b1, b2, b3⟩ := w
  simp only [Words.update_eq, Words.mk.injEq] at h
  obtain ⟨h0, h1, h2, h3⟩ := h
  have h31 : a3 ^^^ a1 = b3 ^^^ b1 := rotl64_injective (by decide) (by decide) h3
  obtain rfl : a0 = b0 := by
    rwa [BitVec.xor_assoc, BitVec.xor_assoc, h31, BitVec.xor_left_inj] at h0
  have h12 : a1 ^^^ a2 = b1 ^^^ b2 := (BitVec.xor_left_inj _).1 h1
  obtain rfl : a1 = b1 := by
    apply xor_shiftLeft_injective
    show a1 ^^^ (a1 <<< 17) = b1 ^^^ (b1 <<< 17)
    rw [← xor_xor_cancel_middle a1 (a2 ^^^ a0), ← xor_xor_cancel_middle b1 (b2 ^^^ a0), h2, ← BitVec.xor_assoc a1,
      ← BitVec.xor_assoc b1, h1]
  obtain rfl : a2 = b2 := (BitVec.xor_right_inj _).1 h12
  obtain rfl : a3 = b3 := (BitVec.xor_left_inj _).1 h31
  rfl

end Sys2Proof.Machine
end

section
/-! PROOFS. The command NEXT (R144). -/

namespace Sys2Proof.Machine

/-- Settles O24: past the checks of FAULTED and SEEDED, NEXT makes one draw and responds. -/
theorem nextAnswersOneRawDraw : Obligations.NextAnswersOneRawDraw := fun _ hf hs => exec_next_of_seeded hf hs

/-- Past the check of FAULTED, NEXT without a generator raises NotSeeded (R202). -/
theorem exec_next_of_not_seeded {s : State} (hf : s.faulted = false) (hs : s.seeded = false) :
    exec .next s = .next (raise .notSeeded s) :=
  congrArg _ ((unlessFaulted_of_not hf).trans (requireSeeded_of_not hs))

/-- The only legal word with the `OP` of NEXT is its own (R62, R63, R66). -/
theorem eq_nextWord_of_legal {w : BitVec 32} (ho : opField w = 0x2#4) (hl : legal w = true) : w = nextWord := by
  have hfields : (reservedZero w = true ∧ countField w = 0#3) ∧ argField w = 0#6 := by simpa [legal, ho] using hl
  obtain ⟨⟨hr, hn⟩, ha⟩ := hfields
  exact eq_nextWord hr ho hn ha

/-- Settles O25: the pseudocode of R144 by its three checks, in their order. -/
theorem nextCommandFollowsItsRule : Obligations.NextCommandFollowsItsRule := by
  intro c s ho
  by_cases hf : s.faulted = true
  · rw [if_pos hf, perform_of_faulted c hf]
    rfl
  have hnf : s.faulted = false := Bool.eq_false_of_not_eq_true hf
  by_cases hw : c.word = 0x00000002#32
  · rw [if_neg hf, if_neg (not_not.2 hw), perform_of_decode ((decode_next_iff c).2 hw)]
    by_cases hs : s.seeded = false
    · rw [if_pos hs, exec_next_of_not_seeded hnf hs, ← hs]
      rfl
    · rw [if_neg hs, nextAnswersOneRawDraw s hnf (Bool.eq_true_of_not_eq_false hs)]
  · have hl : legal c.word = false := Bool.eq_false_of_not_eq_true fun hl => hw (eq_nextWord_of_legal ho hl)
    rw [if_neg hf, if_pos hw]
    exact (perform_of_not_legal hl c.data s).trans (congrArg _ (unlessFaulted_of_not hnf))

end Sys2Proof.Machine
end

section
/-! PROOFS. The same seed and commands give the same responses (R147). Without the host's fields the block goes from one
event to the next by the commands it accepts alone, so their responses do not depend on the edges at which the host
offers, waits and takes. -/

namespace Sys2Proof.Machine

/-! ## The block without its host -/

/-- The state of the block alone: the model's record of the host's duty and later inputs is cleared. -/
def State.withoutHost (s : State) : State := { s with offer := none, pins := [] }

/-- The operation `k` does the same to the block, whatever the host's fields hold. -/
def IgnoresHost (k : State → State) : Prop := ∀ s, k s.withoutHost = (k s).withoutHost

namespace IgnoresHost

variable {k : State → State}

theorem unlessFaulted (h : IgnoresHost k) : IgnoresHost (unlessFaulted k) := by
  intro s
  cases hf : s.faulted
  · rw [unlessFaulted_of_not hf, unlessFaulted_of_not (s := s.withoutHost) hf, h]
  · rw [unlessFaulted_of_faulted hf, unlessFaulted_of_faulted (s := s.withoutHost) hf]
    rfl

theorem requireSeeded (h : IgnoresHost k) : IgnoresHost (requireSeeded k) := by
  intro s
  cases hs : s.seeded
  · rw [requireSeeded_of_not hs, requireSeeded_of_not (s := s.withoutHost) hs]
    rfl
  · rw [requireSeeded_of_seeded hs, requireSeeded_of_seeded (s := s.withoutHost) hs, h]

theorem nextfMicroStep : IgnoresHost nextfMicroStep := by
  intro s
  simp only [Machine.nextfMicroStep, apply_ite State.withoutHost]
  rfl

end IgnoresHost

/-- No instruction reads or writes the host's fields. -/
theorem exec_ignoresHost (i : Instr) : ∃ k, exec i = (fun s => .next (k s)) ∧ IgnoresHost k := by
  cases i with
  | seed n d0 d1 d2 d3 => exact ⟨_, rfl, .unlessFaulted fun s => by split <;> rfl⟩
  | next => exact ⟨_, rfl, .unlessFaulted (.requireSeeded fun _ => rfl)⟩
  | nextf =>
    refine ⟨_, rfl, .unlessFaulted (.requireSeeded fun s => ?_)⟩
    exact IgnoresHost.nextfMicroStep { s with nfTries := 0, rsp := none }
  | rotl k x => exact ⟨_, rfl, .unlessFaulted fun _ => rfl⟩
  | rdreg r =>
    refine ⟨_, rfl, .unlessFaulted fun s => ?_⟩
    have hv : readReg r s.withoutHost = readReg r s := rfl
    rw [hv]
    cases readReg r s with
    | none => rfl
    | some v =>
      cases regNeedsSeed r
      · rfl
      · exact IgnoresHost.requireSeeded (k := respond statusOk v) (fun _ => rfl) s

/-- Nor does an accepted command, an illegal one too. -/
theorem perform_withoutHost {c : Command} {s t : State} (h : perform c s = .next t) :
    perform c s.withoutHost = .next t.withoutHost := by
  have hperform : ∃ k, perform c = (fun s => .next (k s)) ∧ IgnoresHost k := by
    unfold perform
    cases decode c with
    | instr i => exact exec_ignoresHost i
    | illegal why => exact ⟨_, rfl, .unlessFaulted fun _ => rfl⟩
  obtain ⟨k, hk, hig⟩ := hperform
  rw [hk] at h ⊢
  obtain rfl := Host.Outcome.next.inj h
  exact congrArg _ (hig s)

/-! ## The responses of the block to a list of commands -/

/-- `rs` are responses that the block `s` gives to the commands `cs`, up to some point: an idle block accepts the next
command (R71), a NEXTF in progress makes a micro-step (R164), a waiting response is taken (R70), and a run may stop
anywhere, with commands left over. -/
inductive Answers : State → List Command → List Response → Prop
  | stop (s : State) (cs : List Command) : Answers s cs []
  | accept {s t : State} {c : Command} {cs : List Command} {rs : List Response} (hb : s.busy = false)
      (ht : perform c (beginCommand s) = .next t) (h : Answers t cs rs) : Answers s (c :: cs) rs
  | draw {s : State} {cs : List Command} {rs : List Response} (hc : s.computing = true)
      (h : Answers (nextfMicroStep s) cs rs) : Answers s cs rs
  | take {s : State} {r : Response} {cs : List Command} {rs : List Response} (hb : s.busy = true)
      (hr : s.rsp = some r) (h : Answers (release s) cs rs) : Answers s cs (r :: rs)

theorem busy_of_computing {s : State} (h : s.computing = true) : s.busy = true := (Bool.and_eq_true_iff.1 h).1

theorem rsp_of_computing {s : State} (h : s.computing = true) : s.rsp = none :=
  Option.isNone_iff_eq_none.1 (Bool.and_eq_true_iff.1 h).2

/-- The state and the command decide which event is next and what it leads to, so of two lists of responses to the same
commands one begins with the other. -/
theorem Answers.prefix_or {s : State} {cs ds : List Command} {rs qs : List Response} (h : Answers s cs rs)
    (h' : Answers s ds qs) (hp : cs <+: ds) : rs <+: qs ∨ qs <+: rs := by
  induction h generalizing ds qs with
  | stop => exact .inl List.nil_prefix
  | accept hb ht _ ih =>
    cases h' with
    | stop => exact .inr List.nil_prefix
    | accept _ ht' h' =>
      obtain ⟨rfl, hp'⟩ := List.cons_prefix_cons.1 hp
      obtain rfl := Host.Outcome.next.inj (ht.symm.trans ht')
      exact ih h' hp'
    | draw hc => simp [busy_of_computing hc] at hb
    | take hb' => simp [hb'] at hb
  | draw hc _ ih =>
    cases h' with
    | stop => exact .inr List.nil_prefix
    | accept hb => simp [busy_of_computing hc] at hb
    | draw _ h' => exact ih h' hp
    | take _ hr => simp [rsp_of_computing hc] at hr
  | take hb hr _ ih =>
    cases h' with
    | stop => exact .inr List.nil_prefix
    | accept hb' => simp [hb'] at hb
    | draw hc => simp [rsp_of_computing hc] at hr
    | take _ hr' h' =>
      obtain rfl := Option.some.inj (hr.symm.trans hr')
      exact (ih h' hp).imp (List.prefix_cons_inj _).2 (List.prefix_cons_inj _).2

/-! ## What passes over the port in a run -/

theorem accepting_of_presents {s : State} {c : Command} (h : Presents s c) : s.accepting = some c := by
  obtain ⟨hb, hr, hv, hc, hk⟩ := h
  simp [State.accepting, State.cmdReady, hb, hr, hv, hc, hk]

/-- A run that begins with the transfer of a command. -/
theorem transfers_of_presents {s t : State} {c : Command} (h : Presents s c) (hs : step s = .next t) (n : Nat) :
    accepted (n + 1) s = c :: accepted n t ∧ delivered (n + 1) s = delivered n t := by
  simp [accepted, delivered, hs, accepting_of_presents h, delivering_of_presents h]

/-- A run that begins with an edge without the transfer of a command. -/
theorem transfers_of_settle {s t : State} (ha : s.accepting = none) (hs : step s = .next t) (n : Nat) :
    accepted (n + 1) s = accepted n t ∧ delivered (n + 1) s = s.delivering.toList ++ delivered n t := by
  simp [accepted, delivered, hs, ha]

/-- A block that holds a response is busy (R31). -/
theorem BlockInv.busy_of_rsp {s : State} (h : BlockInv s) {r : Response} (hr : s.rsp = some r) : s.busy = true := by
  cases hb : s.busy
  · simp [h.idleEmpty hb] at hr
  · rfl

/-- The responses taken in a run without a reset are answers of the block to the commands accepted. -/
theorem answers_of_run (n : Nat) {s : State} (hinv : BlockInv s) (hnr : NoReset n s) :
    Answers s.withoutHost (accepted n s) (delivered n s) := by
  induction n generalizing s with
  | zero => exact .stop _ _
  | succ n ih =>
    have hrest {t : State} (h : step s = .next t) : Answers t.withoutHost (accepted n t) (delivered n t) :=
      ih (everyStepKeepsTheInvariant s t hinv h) (hnr.tail (step_pins h))
    rcases step_cases s with ⟨hr, -⟩ | ⟨-, -, hs⟩ | ⟨hr, hk, hv, hb, -, hs⟩ | ⟨hr, hk, -, ha, hs⟩
    · simp [hnr.drive_rst] at hr
    · simp only [accepted, delivered, hs]
      exact .stop _ _
    · obtain ⟨t, ht, -⟩ := perform_effect s.drive.cmd (beginCommand s.advance)
      have hst := hs.trans ht
      obtain ⟨hacc, hdel⟩ := transfers_of_presents ⟨hb, hr, hv, rfl, hk⟩ hst n
      rw [hacc, hdel]
      exact .accept hb (perform_withoutHost ht) (hrest hst)
    · obtain ⟨hacc, hdel⟩ := transfers_of_settle ha hs n
      have hnext := hrest hs
      rw [hacc, hdel]
      rcases settle_cases s.drive s.advance with ⟨hv, hy, e⟩ | ⟨hn, hc, e⟩ | ⟨hn, -, e⟩ <;> rw [e] at hnext ⊢
      · obtain ⟨r, hrsp⟩ : ∃ r, s.rsp = some r := Option.isSome_iff_exists.1 (Bool.and_eq_true_iff.1 hv).1
        rw [delivering_of_ready hr hk ha hv hy, hrsp]
        exact .take (hinv.busy_of_rsp hrsp) hrsp hnext
      · rw [delivering_of_not_ready hr hk ha hn]
        have hmicro : nextfMicroStep s.withoutHost = (nextfMicroStep s.advance).withoutHost :=
          IgnoresHost.nextfMicroStep s.advance
        refine .draw hc ?_
        rw [hmicro]
        exact hnext
      · rw [delivering_of_not_ready hr hk ha hn]
        exact hnext

/-! ## Two runs from one seed (R147) -/

/-- After the transfer of a SEED of four words the block, without its host, is what reset and that SEED make of its
build. -/
theorem step_of_presents_seed {s : State} {d0 d1 d2 d3 : Word} (hinv : BlockInv s) (hf : s.faulted = false)
    (h : Presents s (encode (.seed 4#3 d0 d1 d2 d3))) :
    ∃ u, step s = .next u ∧ BlockInv u ∧ u.withoutHost =
      { State.reset with
        gen := Generator.ofSeed d0 d1 d2 d3
        seeded := true
        busy := true
        rsp := some ⟨statusOk, 0⟩
        config := s.config } := by
  obtain ⟨hexec, -⟩ := stepRunsThePresentedCommand s _ h
  have hs := (hexec _ (decodingAnEncodedInstructionGivesItBack _ rfl)).trans
    (seedOfFourWordsConstructsAGenerator d0 d1 d2 d3 _ hf)
  refine ⟨_, hs, everyStepKeepsTheInvariant s _ hinv hs, ?_⟩
  simp only [State.withoutHost, hf, hinv.registerInv.ecode_eq_zero hf]
  rfl

/-- Settles O57: after the SEED both blocks are one but for their hosts, so the responses of both runs are answers of
that one block. -/
theorem sameSeedGivesTheSameResponses : Obligations.SameSeedGivesTheSameResponses := by
  intro m n s t d0 d1 d2 d3 hsi hti hsf htf hcfg hsp htp hsn htn hacc
  obtain _ | m := m
  · exact .inl List.nil_prefix
  obtain _ | n := n
  · exact .inr List.nil_prefix
  obtain ⟨u, hu, hui, hublock⟩ := step_of_presents_seed hsi hsf hsp
  obtain ⟨v, hv, hvi, hvblock⟩ := step_of_presents_seed hti htf htp
  obtain ⟨hsacc, hsdel⟩ := transfers_of_presents hsp hu m
  obtain ⟨htacc, htdel⟩ := transfers_of_presents htp hv n
  have hblock : v.withoutHost = u.withoutHost := by rw [hublock, hvblock, hcfg]
  have hu' := answers_of_run m hui (hsn.tail (step_pins hu))
  have hv' := answers_of_run n hvi (htn.tail (step_pins hv))
  rw [hsacc, htacc, List.prefix_cons_inj] at hacc
  rw [hsdel, htdel]
  exact hu'.prefix_or (hblock ▸ hv') hacc

end Sys2Proof.Machine
end

section
/-! PROOFS. The finite filter and the classes of a pattern (R160–R162). -/

namespace Sys2Proof.Machine

/-! ## A pattern by its fields (R160) -/

/-- The word with these three fields (R160). -/
def binary64Pack (sign : BitVec 1) (exponent : BitVec 11) (fraction : BitVec 52) : Word := sign ++ exponent ++ fraction

@[simp] theorem binary64Sign_pack (b : BitVec 1) (e : BitVec 11) (f : BitVec 52) :
    binary64Sign (binary64Pack b e f) = b := by
  have hhigh : binary64Sign (binary64Pack b e f) = (b ++ e).extractLsb' 11 1 :=
    BitVec.extractLsb'_append_eq_of_le (by decide)
  rw [hhigh, BitVec.extractLsb'_append_eq_left]

@[simp] theorem binary64Exponent_pack (b : BitVec 1) (e : BitVec 11) (f : BitVec 52) :
    binary64Exponent (binary64Pack b e f) = e := by
  have hhigh : binary64Exponent (binary64Pack b e f) = (b ++ e).extractLsb' 0 11 :=
    BitVec.extractLsb'_append_eq_of_le (Nat.le_refl 52)
  rw [hhigh, BitVec.extractLsb'_append_eq_right]

@[simp] theorem binary64Fraction_pack (b : BitVec 1) (e : BitVec 11) (f : BitVec 52) :
    binary64Fraction (binary64Pack b e f) = f := BitVec.extractLsb'_append_eq_right

@[simp] theorem binary64Pack_fields (w : Word) :
    binary64Pack (binary64Sign w) (binary64Exponent w) (binary64Fraction w) = w := by
  have hhigh : binary64Sign w ++ binary64Exponent w = w.extractLsb' 52 12 :=
    BitVec.extractLsb'_append_extractLsb'_eq_extractLsb' rfl
  rw [binary64Pack, hhigh]
  exact BitVec.extractLsb'_append_extractLsb'

/-! ## The classes (R161, R162) -/

theorem isFinite64_iff (w : Word) : isFinite64 w = true ↔ binary64Exponent w ≠ 0x7FF#11 := by simp [isFinite64]

theorem isFinite64_eq_false_iff (w : Word) : isFinite64 w = false ↔ binary64Exponent w = 0x7FF#11 := by
  simp [isFinite64]

/-- R162's table: a row for each class. -/
theorem binary64Class_cases (w : Word) :
    (binary64Exponent w = 0#11 ∧ binary64Fraction w = 0#52 ∧ binary64Class w = .zero) ∨
    (binary64Exponent w = 0#11 ∧ binary64Fraction w ≠ 0#52 ∧ binary64Class w = .subnormal) ∨
    (binary64Exponent w = 0x7FF#11 ∧ binary64Fraction w = 0#52 ∧ binary64Class w = .infinity) ∨
    (binary64Exponent w = 0x7FF#11 ∧ binary64Fraction w ≠ 0#52 ∧ binary64Class w = .nan) ∨
    (binary64Exponent w ≠ 0#11 ∧ binary64Exponent w ≠ 0x7FF#11 ∧ binary64Class w = .normal) := by
  unfold binary64Class
  by_cases h0 : binary64Exponent w = 0#11
  · by_cases hf : binary64Fraction w = 0#52 <;> simp [h0, hf]
  · by_cases h7 : binary64Exponent w = 0x7FF#11
    · by_cases hf : binary64Fraction w = 0#52 <;> simp [h7, hf]
    · simp [h0, h7]

/-- The exponents of the normal numbers, 1 to 0x7FE, are those between the two that have a class of their own. -/
theorem exponent_normal_iff (e : BitVec 11) : (1 ≤ e.toNat ∧ e.toNat ≤ 0x7FE) ↔ e ≠ 0#11 ∧ e ≠ 0x7FF#11 := by
  bv_omega

/-! ## The non-finite patterns (R161) -/

/-- The non-finite pattern with the sign and the fraction that a 53-bit number gives. -/
def nonFinitePattern (v : BitVec 53) : Word := binary64Pack (v.extractLsb' 52 1) 0x7FF#11 (v.extractLsb' 0 52)

theorem nonFinitePattern_injective : Function.Injective nonFinitePattern := by
  intro u v h
  have hsign : u.extractLsb' 52 1 = v.extractLsb' 52 1 := by simpa [nonFinitePattern] using congrArg binary64Sign h
  have hfraction : u.extractLsb' 0 52 = v.extractLsb' 0 52 := by
    simpa [nonFinitePattern] using congrArg binary64Fraction h
  have hparts (x : BitVec 53) : x.extractLsb' 52 1 ++ x.extractLsb' 0 52 = x := BitVec.extractLsb'_append_extractLsb'
  rw [← hparts u, hsign, hfraction, hparts]

theorem nonFinitePattern_append (b : BitVec 1) (f : BitVec 52) :
    nonFinitePattern (b ++ f) = binary64Pack b 0x7FF#11 f := by
  rw [nonFinitePattern, BitVec.extractLsb'_append_eq_left, BitVec.extractLsb'_append_eq_right]

theorem isFinite64_eq_false_iff_exists (w : Word) : isFinite64 w = false ↔ ∃ v, nonFinitePattern v = w := by
  rw [isFinite64_eq_false_iff]
  constructor
  · intro h
    exact ⟨binary64Sign w ++ binary64Fraction w, by rw [nonFinitePattern_append, ← h, binary64Pack_fields]⟩
  · rintro ⟨v, rfl⟩
    exact binary64Exponent_pack _ _ _

/-- Settles O26: each row of the table decides every clause about the classes, and the non-finite patterns are those of
`nonFinitePattern`. -/
theorem finiteFilterFollowsTheClasses : Obligations.FiniteFilterFollowsTheClasses := by
  refine ⟨fun w => ?_, nonFinitePattern, fun _ _ h => nonFinitePattern_injective h, isFinite64_eq_false_iff_exists⟩
  have hexponent : w.extractLsb' 52 11 = binary64Exponent w := rfl
  have hfraction : w.extractLsb' 0 52 = binary64Fraction w := rfl
  simp only [hexponent, hfraction, isFinite64_iff, isFinite64_eq_false_iff, exponent_normal_iff]
  rcases binary64Class_cases w with ⟨he, hf, hc⟩ | ⟨he, hf, hc⟩ | ⟨he, hf, hc⟩ | ⟨he, hf, hc⟩ | ⟨h0, h7, hc⟩
  · simp [he, hf, hc]
  · simp [he, hf, hc]
  · simp [he, hf, hc]
  · simp [he, hf, hc]
  · simp [h0, h7, hc]

end Sys2Proof.Machine
end

section
/-! PROOFS. The command NEXTF (R163–R168): its micro-steps, and its runs under a host that only waits. -/

namespace Sys2Proof.Machine

/-! ## A micro-step, by its draw and the cap (R163–R165) -/

theorem nextfMicroStep_of_finite {s : State} (h : isFinite64 s.gen.draw.1 = true) :
    nextfMicroStep s = respond statusOk s.gen.draw.1 (drawAndCount s) := if_pos h

theorem nextfMicroStep_of_exhausted {s : State} (h : isFinite64 s.gen.draw.1 = false)
    (hcap : s.config.finiteCap = some (s.nfTries + 1)) :
    nextfMicroStep s = raise .retryExhausted (drawAndCount s) :=
  (if_neg (by simp [h])).trans (if_pos hcap)

theorem nextfMicroStep_of_rejected {s : State} (h : isFinite64 s.gen.draw.1 = false)
    (hcap : s.config.finiteCap ≠ some (s.nfTries + 1)) : nextfMicroStep s = drawAndCount s :=
  (if_neg (by simp [h])).trans (if_neg hcap)

/-- Settles O27: the three cases of the micro-step, with the tries at 0. -/
theorem nextfMakesItsFirstMicroStep : Obligations.NextfMakesItsFirstMicroStep := by
  intro s hf hs
  rw [exec_nextf_of_seeded hf hs]
  refine ⟨fun h => ?_, fun h hcap => ?_, fun h hcap => ?_⟩
  · exact congrArg _ (nextfMicroStep_of_finite (s := { s with nfTries := 0, rsp := none }) h)
  · have hstatus : statusWord true true 4#4 = statusWord s.seeded true 4#4 := by rw [hs]
    rw [hstatus]
    exact congrArg _ (nextfMicroStep_of_exhausted (s := { s with nfTries := 0, rsp := none }) h hcap)
  · exact congrArg _ (nextfMicroStep_of_rejected (s := { s with nfTries := 0, rsp := none }) h hcap)

/-- A NEXTF in progress has no response to take: an edge without a transfer of a command makes a micro-step (R164). -/
theorem settle_of_computing {s : State} (hc : s.computing = true) (p : PortIn) : settle p s = nextfMicroStep s := by
  rcases settle_cases p s with ⟨hv, -⟩ | ⟨-, -, e⟩ | ⟨-, hn, -⟩
  · simp [State.rspValid, rsp_of_computing hc] at hv
  · exact e
  · cases hc.symm.trans hn

/-! ## The answers of a NEXTF (R168) -/

/-- The OK response that a micro-step gives is its finite draw. -/
theorem isFinite64_of_nextfMicroStep_rsp {s : State} {w : Word} (hr : s.rsp = none)
    (h : (nextfMicroStep s).rsp = some ⟨statusOk, w⟩) : isFinite64 w = true := by
  rcases nextfMicroStep_cases s with ⟨hw, e⟩ | ⟨-, -, e⟩ | ⟨-, -, e⟩ <;> rw [e] at h
  · obtain rfl : s.gen.draw.1 = w := by simpa using h
    exact hw
  · simp [Cause.code, statusOk] at h
  · simp [hr] at h

/-- Settles O31: only a micro-step gives an OK response. -/
theorem okResponsesOfNextfAreFinite : Obligations.OkResponsesOfNextfAreFinite := by
  rintro s t w (h | ⟨hc, h⟩) hw
  · cases effect_of_exec h with
    | halted => simp [statusHalted] at hw
    | raised f => simp at hw
    | answered _ _ hi => simp at hi
    | constructed _ _ _ _ _ hi => cases hi
    | drew _ _ hi => cases hi
    | microStep => exact isFinite64_of_nextfMicroStep_rsp rfl hw
  · have hr : s.rsp = none := rsp_of_computing hc
    rcases step_cases s with ⟨-, -, hs⟩ | ⟨-, -, hs⟩ | ⟨-, -, -, hb, -⟩ | ⟨-, -, -, -, hs⟩
    · obtain rfl := Host.Outcome.next.inj (hs.symm.trans h)
      simp at hw
    · simp [hs] at h
    · simp [busy_of_computing hc] at hb
    · obtain rfl := Host.Outcome.next.inj (hs.symm.trans h)
      rw [noteOffer_rsp, settle_of_computing (s := s.advance) hc] at hw
      exact isFinite64_of_nextfMicroStep_rsp (s := s.advance) hr hw

/-! ## A host that only waits -/

/-- The first edge of a waiting host; at the edges that `pins` does not give it only holds its offer. -/
theorem QuietFor.drive {n : Nat} {s : State} (h : QuietFor (n + 1) s.pins) (ho : s.offer = none) :
    s.drive.rst = false ∧ s.drive.cmdValid = false := by
  cases hp : s.pins with
  | nil => simp [State.drive, hp, State.holding, ho, PortIn.quiet]
  | cons p ps => rw [drive_of_cons hp]; exact h p (by simp [hp])

theorem QuietFor.drop {m n : Nat} {ps : List PortIn} (h : QuietFor (m + n) ps) : QuietFor n (ps.drop m) := by
  intro p hp
  rw [List.take_drop] at hp
  exact h p (List.mem_of_mem_drop hp)

theorem QuietFor.mono {m n : Nat} {ps : List PortIn} (h : QuietFor n ps) (hmn : m ≤ n) : QuietFor m ps :=
  fun p hp => h p (List.take_subset_take_left ps hmn hp)

/-- A host that offers nothing owes nothing. -/
theorem noteOffer_of_no_offer {p : PortIn} {s : State} (hv : p.cmdValid = false) (ho : s.offer = none) :
    noteOffer p s = s := by
  cases s
  simp_all [noteOffer]

/-- With a host that waits, a NEXTF in progress makes one micro-step at an edge (R164). -/
theorem step_of_computing {s : State} (hc : s.computing = true) (ho : s.offer = none) (hq : QuietFor 1 s.pins) :
    step s = .next (nextfMicroStep s.advance) := by
  obtain ⟨hrst, hv⟩ := hq.drive ho
  rcases step_cases s with ⟨hr, -⟩ | ⟨-, hk, -⟩ | ⟨-, -, hv', -⟩ | ⟨-, -, -, -, hs⟩
  · simp [hrst] at hr
  · simp [State.holdKept, ho] at hk
  · simp [hv] at hv'
  · rw [hs, settle_of_computing (s := s.advance) hc, noteOffer_of_no_offer hv]
    simp [ho]

/-! ## The run of a NEXTF (R163, R164) -/

/-- The block `s` inside a NEXTF that has made `n` draws and has no answer yet, with the host's inputs `ps` to come. -/
def State.inNextf (s : State) (n : Nat) (ps : List PortIn) : State :=
  { s with gen := s.gen.after n, busy := true, nfTries := n, rsp := none, pins := ps }

theorem drawAndCount_inNextf (s : State) (n : Nat) (ps : List PortIn) :
    drawAndCount (s.inNextf n ps) = s.inNextf (n + 1) ps := by
  simp [drawAndCount, State.inNextf, after_succ_last]

section
variable {s : State} {n : Nat} (ps : List PortIn)

theorem nextfMicroStep_inNextf_of_finite (h : isFinite64 (s.gen.word n) = true) :
    nextfMicroStep (s.inNextf n ps) = respond statusOk (s.gen.word n) (s.inNextf (n + 1) ps) := by
  rw [← drawAndCount_inNextf]
  exact nextfMicroStep_of_finite (s := s.inNextf n ps) h

theorem nextfMicroStep_inNextf_of_exhausted (h : isFinite64 (s.gen.word n) = false)
    (hcap : s.config.finiteCap = some (n + 1)) :
    nextfMicroStep (s.inNextf n ps) = raise .retryExhausted (s.inNextf (n + 1) ps) := by
  rw [← drawAndCount_inNextf]
  exact nextfMicroStep_of_exhausted (s := s.inNextf n ps) h hcap

theorem nextfMicroStep_inNextf_of_rejected (h : isFinite64 (s.gen.word n) = false)
    (hcap : s.config.finiteCap ≠ some (n + 1)) : nextfMicroStep (s.inNextf n ps) = s.inNextf (n + 1) ps := by
  rw [← drawAndCount_inNextf]
  exact nextfMicroStep_of_rejected (s := s.inNextf n ps) h hcap

end

section
variable {s : State} {rest : List PortIn} (hb : s.busy = false) (ho : s.offer = none) (hf : s.faulted = false)
  (hs : s.seeded = true) (hp : s.pins = PortIn.offering ⟨0x00000003#32, 0⟩ :: rest)
include hb ho hf hs hp

/-- The step that accepts an offered NEXTF makes its first micro-step. -/
theorem step_of_offered_nextf : step s = .next (nextfMicroStep (s.inNextf 0 rest)) := by
  have hbegin : { beginCommand s.advance with nfTries := 0, rsp := none } = s.inNextf 0 rest := by
    simp [beginCommand, State.advance, State.inNextf, hp, ho]
  have hdecode : decode ⟨0x00000003#32, 0⟩ = .instr .nextf := decode_nextfWord 0
  rw [step_of_presents (presents_of_cons hb ho hp), perform_of_decode hdecode,
    exec_nextf_of_seeded (s := beginCommand s.advance) hf hs, hbegin]

/-- After `k` rejected draws below the cap the next step makes the micro-step of the draw after them. -/
theorem run_of_rejected_draws (k : Nat) (hq : QuietFor k rest)
    (hrej : ∀ i, i < k → isFinite64 (s.gen.word i) = false) (hcap : ∀ c, s.config.finiteCap = some c → k < c) :
    run (k + 1) s = .next (nextfMicroStep (s.inNextf k (rest.drop k))) := by
  induction k with
  | zero => rw [run_one, step_of_offered_nextf hb ho hf hs hp, List.drop_zero]
  | succ k ih =>
    have hrun : run (k + 1) s = .next (nextfMicroStep (s.inNextf k (rest.drop k))) :=
      ih (hq.mono (Nat.le_succ k)) (fun i hi => hrej i (by omega)) (fun c hc => Nat.lt_of_succ_lt (hcap c hc))
    have hgoesOn : nextfMicroStep (s.inNextf k (rest.drop k)) = s.inNextf (k + 1) (rest.drop k) :=
      nextfMicroStep_inNextf_of_rejected _ (hrej k (by omega)) fun hc => Nat.lt_irrefl _ (hcap _ hc)
    have hstep : step (s.inNextf (k + 1) (rest.drop k)) =
        .next (nextfMicroStep (s.inNextf (k + 1) (rest.drop k).tail)) := step_of_computing rfl ho hq.drop
    rw [run_add hrun, hgoesOn, run_one, hstep, List.tail_drop]

end

/-- Settles O28: the micro-step after the rejected draws answers. -/
theorem nextfAnswersTheFirstFiniteDraw : Obligations.NextfAnswersTheFirstFiniteDraw := by
  intro k s rest hb ho hf hs hp hq hrej hfin hcap
  rw [run_of_rejected_draws hb ho hf hs hp k hq hrej hcap, nextfMicroStep_inNextf_of_finite _ hfin]
  rfl

/-- Settles O29: the draw after the first `c - 1` rejected ones reaches the cap. -/
theorem nextfExhaustsItsCap : Obligations.NextfExhaustsItsCap := by
  intro c s rest hc hcap hb ho hf hs hp hq hrej
  obtain ⟨k, rfl⟩ := Nat.exists_eq_add_of_le' hc
  have hbelow : ∀ c, s.config.finiteCap = some c → k < c := by simp [hcap]
  have hstatus : statusWord s.seeded true Cause.retryExhausted.code = 0x43#64 := by rw [hs]; decide
  rw [run_of_rejected_draws hb ho hf hs hp k hq (fun i hi => hrej i (Nat.lt_succ_of_lt hi)) hbelow,
    nextfMicroStep_inNextf_of_exhausted _ (hrej k (Nat.lt_succ_self k)) hcap, ← hstatus]
  rfl

/-- Settles O30: the draw after the first `k` rejected ones is rejected too, below the cap. -/
theorem nextfGoesOnWhileDrawsAreRejected : Obligations.NextfGoesOnWhileDrawsAreRejected := by
  intro k s rest hb ho hf hs hp hq hrej hcap
  have hbelow : s.config.finiteCap ≠ some (k + 1) := fun hc => Nat.lt_irrefl _ (hcap _ hc)
  rw [run_of_rejected_draws hb ho hf hs hp k hq (fun i hi => hrej i (Nat.le_of_lt hi))
    (fun c hc => Nat.lt_of_succ_lt (hcap c hc)), nextfMicroStep_inNextf_of_rejected _ (hrej k (Nat.le_refl k)) hbelow]
  rfl

end Sys2Proof.Machine
end

section
/-! PROOFS. The command RDREG (R180, R181): what a legal index reads, and the answers of RDREG by its checks. -/

namespace Sys2Proof.Machine

/-! ## The register map (R181) -/

/-- The map of R181 as a list: a legal index reads the entry at its place. -/
theorem readReg_of_le_six {r : BitVec 6} (hr : r.toNat ≤ 6) (s : State) :
    readReg r s = some ([s.gen.words.s0, s.gen.words.s1, s.gen.words.s2, s.gen.words.s3, s.gen.cnt.setWidth 64,
      s.gen.ndraw, s.status].getD r.toNat 0) := by
  interval_cases h : r.toNat <;> simp [readReg, h]

theorem registerIndexLegal_eq_true_iff (r : BitVec 6) : registerIndexLegal r = true ↔ r.toNat ≤ 6 := decide_eq_true_iff

theorem regNeedsSeed_eq_true_iff (r : BitVec 6) : regNeedsSeed r = true ↔ r.toNat ≤ 5 := decide_eq_true_iff

/-! ## RDREG past the check of FAULTED (R180) -/

section
variable {r : BitVec 6} {s : State} (hf : s.faulted = false)
include hf

/-- RDREG answers a register that it may read. -/
theorem exec_rdreg_of_readReg {v : Word} (hv : readReg r s = some v) (hs : regNeedsSeed r = true → s.seeded = true) :
    exec (.rdreg r) s = .next (respond statusOk v s) := by
  refine congrArg _ ((unlessFaulted_of_not hf).trans ?_)
  rw [hv]
  by_cases hn : regNeedsSeed r = true
  · exact (if_pos hn).trans (requireSeeded_of_seeded (hs hn))
  · exact if_neg hn

/-- RDREG of an index that names no register raises IllegalCommand (R203). -/
theorem exec_rdreg_of_not_legal (hr : registerIndexLegal r = false) :
    exec (.rdreg r) s = .next (raise .illegalCommand s) := by
  refine congrArg _ ((unlessFaulted_of_not hf).trans ?_)
  rw [(readReg_eq_none_iff r s).2 hr]

/-- RDREG of a register of the generator raises NotSeeded while there is none (R202). -/
theorem exec_rdreg_of_not_seeded (hr : regNeedsSeed r = true) (hs : s.seeded = false) :
    exec (.rdreg r) s = .next (raise .notSeeded s) :=
  (execRdreg_of_unseeded hr hs).trans (congrArg _ (unlessFaulted_of_not hf))

end

/-- Settles O32: a legal index reads its entry of the map, and the countdown's range is the invariant's. -/
theorem rdregAnswersTheNamedRegister : Obligations.RdregAnswersTheNamedRegister := by
  refine ⟨fun r s hf hr hs => ?_, fun r s hf hr => ?_, fun s hinv hs => ?_⟩
  · exact exec_rdreg_of_readReg hf (readReg_of_le_six hr s) fun hn => hs ((regNeedsSeed_eq_true_iff r).1 hn)
  · have hnone : ¬ registerIndexLegal r = true := fun hl =>
      Nat.not_succ_le_self 6 (hr.trans ((registerIndexLegal_eq_true_iff r).1 hl))
    exact exec_rdreg_of_not_legal hf (Bool.eq_false_of_not_eq_true hnone)
  · rw [BitVec.toNat_setWidth_of_le (by omega)]
    exact hinv.cntRange hs

/-! ## The whole rule of RDREG (R180) -/

/-- A legal word with the `OP` of RDREG decodes to RDREG, and its index names a register (R66, R181). -/
theorem decode_rdreg_of_legal {c : Command} (ho : opField c.word = 0x5#4) (hl : legal c.word = true) :
    decode c = .instr (.rdreg (argField c.word)) ∧ (argField c.word).toNat ≤ 6 := by
  have hfields : (reservedZero c.word = true ∧ countField c.word = 0#3) ∧ (argField c.word).toNat ≤ 6 := by
    simpa [legal, ho] using hl
  obtain ⟨⟨hr, hn⟩, ha⟩ := hfields
  refine ⟨?_, ha⟩
  rw [decode_rdreg ho, if_pos ((registerIndexLegal_eq_true_iff _).2 ha)]
  exact checked_eq_instr.2 ⟨hr, .inr hn, .inl rfl, rfl⟩

/-- Settles O33: the pseudocode of R180 by its three checks, in their order. -/
theorem rdregCommandFollowsItsRule : Obligations.RdregCommandFollowsItsRule := by
  intro c s ho
  by_cases hf : s.faulted = true
  · rw [if_pos hf, perform_of_faulted c hf]
    rfl
  have hnf : s.faulted = false := Bool.eq_false_of_not_eq_true hf
  by_cases hl : legal c.word = false
  · rw [if_neg hf, if_pos hl]
    exact (perform_of_not_legal hl c.data s).trans (congrArg _ (unlessFaulted_of_not hnf))
  obtain ⟨hd, hr⟩ := decode_rdreg_of_legal ho (Bool.eq_true_of_not_eq_false hl)
  rw [if_neg hf, if_neg hl, perform_of_decode hd]
  by_cases hns : (argField c.word).toNat ≤ 5 ∧ s.seeded = false
  · have ⟨hr5, hs⟩ := hns
    rw [if_pos hns, exec_rdreg_of_not_seeded hnf ((regNeedsSeed_eq_true_iff _).2 hr5) hs, ← hs]
    rfl
  · rw [if_neg hns]
    exact rdregAnswersTheNamedRegister.1 _ s hnf hr fun hr5 => Bool.eq_true_of_not_eq_false fun hs => hns ⟨hr5, hs⟩

end Sys2Proof.Machine
end

section
/-! PROOFS. The faults (R200–R211): fault entry, where each fault is raised, the order of the checks, the fault output, and
the idle block (R218). -/

namespace Sys2Proof.Machine

/-! ## Fault entry and the FAULTED block (R205, R208) -/

/-- Settles O36: STATUS is read from the state that holds the record, so it shows FAULTED and the code. -/
theorem faultEntryRecordsAndAnswers : Obligations.FaultEntryRecordsAndAnswers :=
  fun _ => ⟨rfl, rfl, rfl, rfl⟩

/-- Settles O37: the check of FAULTED precedes every other, for an illegal word too. -/
theorem faultedBlockAnswersHalted : Obligations.FaultedBlockAnswersHalted :=
  fun c _ hf => perform_of_faulted c hf

/-! ## NotSeeded and IllegalCommand (R202, R203) -/

/-- Past the check of FAULTED, NEXTF without a generator raises NotSeeded (R202). -/
theorem exec_nextf_of_not_seeded {s : State} (hf : s.faulted = false) (hs : s.seeded = false) :
    exec .nextf s = .next (raise .notSeeded s) :=
  congrArg _ ((unlessFaulted_of_not hf).trans (requireSeeded_of_not hs))

/-- Settles O38: each of the three commands raises NotSeeded at its check for a generator. -/
theorem commandsWithoutAGeneratorRaiseNotSeeded : Obligations.CommandsWithoutAGeneratorRaiseNotSeeded := by
  intro i s hf hs hi
  have hraise : exec i s = .next (raise .notSeeded s) := by
    obtain rfl | rfl | ⟨r, hr, rfl⟩ := hi
    · exact exec_next_of_not_seeded hf hs
    · exact exec_nextf_of_not_seeded hf hs
    · exact exec_rdreg_of_not_seeded hf ((regNeedsSeed_eq_true_iff r).2 hr) hs
  rw [hraise, ← hs]
  rfl

/-- Settles O39: a word that is not legal decodes to no instruction, so no operand is read. -/
theorem illegalWordsRaiseIllegalCommand : Obligations.IllegalWordsRaiseIllegalCommand :=
  fun c s hf hl => (perform_of_not_legal hl c.data s).trans (congrArg _ (unlessFaulted_of_not hf))

/-! ## The order of the checks (R209) -/

theorem exists_decode_of_legal {c : Command} (h : legal c.word = true) : ∃ i, decode c = .instr i := by
  cases hd : decode c with
  | instr i => exact ⟨i, rfl⟩
  | illegal why => simp [← isSome_decode, hd, Decoded.toOption] at h

/-- A micro-step gives no answer, or OK, or, at the cap, RetryExhausted (R164, R165). -/
theorem nextfMicroStep_status {s : State} (hr : s.rsp = none) :
    (nextfMicroStep s).rsp = none ∨ (nextfMicroStep s).rsp.map Response.status = some 0#4 ∨
      ((nextfMicroStep s).rsp.map Response.status = some 4#4 ∧ s.config.finiteCap = some (s.nfTries + 1)) := by
  rcases nextfMicroStep_cases s with ⟨-, e⟩ | ⟨-, hcap, e⟩ | ⟨-, -, e⟩ <;> rw [e]
  · exact .inr (.inl rfl)
  · exact .inr (.inr ⟨rfl, hcap⟩)
  · exact .inl hr

/-- Settles O40: checks 1 and 2 precede the instruction; of the instructions, SEED makes check 3, and NEXT, NEXTF and
RDREG make check 4. -/
theorem checksDecideTheResponseInOrder : Obligations.ChecksDecideTheResponseInOrder := by
  intro c s
  by_cases hf : s.faulted = true
  · exact ⟨_, faultedBlockAnswersHalted c s hf, by rw [if_pos hf]; rfl⟩
  have hnf : s.faulted = false := Bool.eq_false_of_not_eq_true hf
  by_cases hl : legal c.word = false
  · exact ⟨_, illegalWordsRaiseIllegalCommand c s hnf hl, by rw [if_neg hf, if_pos hl]; rfl⟩
  obtain ⟨i, hd⟩ := exists_decode_of_legal (Bool.eq_true_of_not_eq_false hl)
  simp only [if_neg hf, if_neg hl, perform_of_decode hd]
  obtain ⟨-, ⟨ho, -, rfl⟩ | ⟨ho, -, -, rfl⟩ | ⟨ho, -, -, rfl⟩ | ⟨ho, -, rfl⟩ | ⟨ho, -, hr, rfl⟩⟩ := decode_cases hd
  · by_cases hn : countField c.word = 4#3
    · rw [hn]
      exact ⟨_, seedOfFourWordsConstructsAGenerator _ _ _ _ s hnf, by simp [ho]⟩
    · exact ⟨_, seedOfAnyOtherCountIsInvalid _ _ _ _ _ s hn hnf, by simp [ho, hn]⟩
  · cases hs : s.seeded
    · exact ⟨_, exec_next_of_not_seeded hnf hs, by simp [ho, Cause.code]⟩
    · exact ⟨_, exec_next_of_seeded hnf hs, by simp [ho, statusOk]⟩
  · cases hs : s.seeded
    · exact ⟨_, exec_nextf_of_not_seeded hnf hs, by simp [ho, Cause.code]⟩
    · exact ⟨_, exec_nextf_of_seeded hnf hs, by simpa [ho] using nextfMicroStep_status rfl⟩
  · exact ⟨_, rotlAnswersTheRotatedWord _ _ s hnf, by simp [ho]⟩
  · by_cases hns : s.seeded = false ∧ (argField c.word).toNat ≤ 5
    · obtain ⟨hs, hr5⟩ := hns
      exact ⟨_, exec_rdreg_of_not_seeded hnf ((regNeedsSeed_eq_true_iff _).2 hr5) hs,
        by simp [ho, hs, hr5, Cause.code]⟩
    · refine ⟨_, exec_rdreg_of_readReg hnf (readReg_of_le_six ((registerIndexLegal_eq_true_iff _).1 hr) s) fun h5 => ?_,
        by simp [ho, hns, statusOk]⟩
      exact Bool.eq_true_of_not_eq_false fun hs => hns ⟨hs, (regNeedsSeed_eq_true_iff _).1 h5⟩

/-! ## The fault output (R211) -/

/-- Settles O42: the output is the flag FAULTED, which reset clears, fault entry sets and every other edge keeps. -/
theorem faultOutputIsTheFaultedBit : Obligations.FaultOutputIsTheFaultedBit := by
  refine ⟨fun s _ => ?_, fun s hrst => ⟨_, step_of_reset hrst, fun _ => rfl⟩, fun _ _ _ => rfl, ?_⟩
  · obtain ⟨-, hbit, -⟩ := statusShowsTheFlagsAndZeros s
    exact hbit.symm
  · intro s t hinv hf hrst h _
    obtain ⟨ht, -⟩ := onlyResetLeavesTheFaultedState s t hinv hf hrst h
    exact ht

/-! ## The idle block (R218) -/

/-- Without a command in progress and without a response there is nothing to release and no micro-step to make. -/
theorem settle_of_idle {s : State} (hb : s.busy = false) (hr : s.rsp = none) (p : PortIn) : settle p s = s := by
  rcases settle_cases p s with ⟨hv, -⟩ | ⟨-, hc, -⟩ | ⟨-, -, e⟩
  · simp [State.rspValid, hr] at hv
  · simp [State.computing, hb] at hc
  · exact e

/-- Settles O49: the edge is one without a transfer, and only the host's inputs move on. -/
theorem idleBlockHoldsAllState : Obligations.IdleBlockHoldsAllState := by
  intro s hb hr ho hrst hv
  rcases step_cases s with ⟨h, -⟩ | ⟨-, hk, -⟩ | ⟨-, -, hv', -⟩ | ⟨-, -, -, -, hs⟩
  · simp [hrst] at h
  · simp [State.holdKept, ho] at hk
  · simp [hv] at hv'
  · rw [hs, settle_of_idle (s := s.advance) hb hr, noteOffer_of_no_offer (s := s.advance) hv ho]
    rfl

end Sys2Proof.Machine
end

section
/-! PROOFS. Hazards (R235, R236): a waiting response stops the block, and the generator's registers change only where a
rule says so. -/

namespace Sys2Proof.Machine

/-! ## Backpressure (R235) -/

/-- While the host does not take the response that waits, an edge without a transfer of a command changes nothing. -/
theorem settle_of_response_held {p : PortIn} {s : State} {r : Response} (hrsp : s.rsp = some r)
    (hready : p.rspReady = false) : settle p s = s := by
  rcases settle_cases p s with ⟨-, hy, -⟩ | ⟨-, hc, -⟩ | ⟨-, -, e⟩
  · simp [hready] at hy
  · simp [rsp_of_computing hc] at hrsp
  · exact e

/-- Settles O47: the busy block accepts no command, so the edge only notes what the host offers. -/
theorem waitingResponseIsHeldUntilTaken : Obligations.WaitingResponseIsHeldUntilTaken := by
  intro s r hb hrsp hrst hready hk
  constructor
  · simp [State.outputs, State.cmdReady, State.rspValid, State.faultOut, hb, hrsp]
  · rcases step_cases s with ⟨h, -⟩ | ⟨-, h, -⟩ | ⟨-, -, -, h, -⟩ | ⟨-, -, -, -, hs⟩
    · simp [hrst] at h
    · simp [hk] at h
    · simp [hb] at h
    · rw [hs, settle_of_response_held (s := s.advance) hrsp hready]
      rfl

/-! ## What changes the generator (R236) -/

/-- Of all effects only a draw of NEXT or NEXTF and a SEED of four words change the generator. -/
theorem Effect.gen {i : Instr} {s t : State} (h : Effect i s t) :
    t.gen = s.gen ∨
      (t.gen = s.gen.draw.2 ∧ s.seeded = true ∧ s.faulted = false ∧ (i = .next ∨ i = .nextf)) ∨
      (s.faulted = false ∧ ∃ d0 d1 d2 d3, i = .seed 4#3 d0 d1 d2 d3 ∧ t.gen = Generator.ofSeed d0 d1 d2 d3) := by
  cases h with
  | halted | raised | answered => exact .inl rfl
  | drew hf hs hi => exact .inr (.inl ⟨rfl, hs, hf, .inl hi⟩)
  | microStep hf hs hi => exact .inr (.inl ⟨nextfMicroStep_gen _, hs, hf, .inr hi⟩)
  | constructed d0 d1 d2 d3 hf hi => exact .inr (.inr ⟨hf, d0, d1, d2, d3, hi, rfl⟩)

/-- An accepted command that changes the generator decodes to one of those three instructions. -/
theorem gen_of_perform {c : Command} {s t : State} (h : perform c s = .next t) :
    t.gen = s.gen ∨
      (t.gen = s.gen.draw.2 ∧ s.seeded = true ∧ s.faulted = false ∧
        (decode c = .instr .next ∨ decode c = .instr .nextf)) ∨
      (s.faulted = false ∧ ∃ d0 d1 d2 d3,
        decode c = .instr (.seed 4#3 d0 d1 d2 d3) ∧ t.gen = Generator.ofSeed d0 d1 d2 d3) := by
  obtain ⟨u, hu, hc⟩ := perform_effect c s
  obtain rfl := Host.Outcome.next.inj (hu.symm.trans h)
  rcases hc with ⟨i, hi, he⟩ | ⟨-, ⟨-, rfl⟩ | ⟨-, rfl⟩⟩
  · simpa only [hi, Decoded.instr.injEq] using he.gen
  · exact .inl rfl
  · exact .inl rfl

/-- An edge without a transfer of a command changes the generator only by a draw of the NEXTF in progress. -/
theorem settle_gen_cases (p : PortIn) (s : State) :
    (settle p s).gen = s.gen ∨ (s.computing = true ∧ (settle p s).gen = s.gen.draw.2) := by
  rcases settle_cases p s with ⟨-, -, e⟩ | ⟨-, hc, e⟩ | ⟨-, -, e⟩
  · exact .inl (by simp [e])
  · exact .inr ⟨hc, by simp [e]⟩
  · exact .inl (by rw [e])

/-- Settles O52: an edge transfers a command, whose draw or SEED `gen_of_perform` names, or it transfers none, and
`settle_gen_cases` says what it draws. -/
theorem generatorChangesOnlyInItsCommands : Obligations.GeneratorChangesOnlyInItsCommands := by
  intro s t h hrst
  rcases step_cases s with ⟨hr, -⟩ | ⟨-, -, hs⟩ | ⟨-, -, -, -, ha, hs⟩ | ⟨-, -, -, -, hs⟩
  · simp [hrst] at hr
  · simp [hs] at h
  · rcases gen_of_perform (hs.symm.trans h) with hg | ⟨hg, hsd, hf, hd⟩ | ⟨hf, d0, d1, d2, d3, hd, hg⟩
    · exact .inl hg
    · exact .inr (.inl ⟨hg, .inr ⟨hsd, hf, s.drive.cmd, ha, hd⟩⟩)
    · exact .inr (.inr ⟨hf, s.drive.cmd, d0, d1, d2, d3, ha, hd, hg⟩)
  · obtain rfl := Host.Outcome.next.inj (hs.symm.trans h)
    rcases settle_gen_cases s.drive s.advance with hg | ⟨hc, hg⟩
    · exact .inl hg
    · exact .inr (.inl ⟨hg, .inl hc⟩)

end Sys2Proof.Machine
end

section
/-! PROOFS. The loader (log entries 5 and 6): a word of the opcode table on the port of an idle block. -/

namespace Sys2Proof.Machine

theorem toOption_eq_some {d : Decoded} {i : Instr} : d.toOption = some i ↔ d = .instr i := by
  cases d <;> simp [Decoded.toOption]

/-- The block at rest with the command on its port is about to accept it, whatever state it was made from. -/
theorem presents_presented (c : Command) (s : State) : Presents (s.presented c) c :=
  presents_of_cons (presented_busy c s) (presented_offer c s) (presented_pins c s)

/-- The edge consumes what `presented` put on the port, and `beginCommand` sets the other fields `presented` touched. -/
theorem beginCommand_advance_presented (c : Command) (s : State) :
    beginCommand (s.presented c).advance = beginCommand s := rfl

/-- The step after `presented` performs the command on the accepting state (R71). -/
theorem step_presented (c : Command) (s : State) : step (s.presented c) = perform c (beginCommand s) := by
  rw [step_of_presents (presents_presented c s), beginCommand_advance_presented]

/-- Settles O44: `withFetchWord` presents the table word's command, and the command performed is the decoded one. -/
theorem stepRunsTheFetchedWord : Obligations.StepRunsTheFetchedWord := by
  intro s nbits w i h
  have hdecode : decode (commandOfBits nbits w) = .instr i := toOption_eq_some.1 h
  calc step (s.withFetchWord nbits w)
      = perform (commandOfBits nbits w) (beginCommand s) := step_presented _ s
    _ = exec i (beginCommand s) := perform_of_decode hdecode _

end Sys2Proof.Machine
end
